-- ==== Sys2Proof/Word.lean ====
section
/-! DEFINITION. The bit-vector widths of the hardware: spec/10_state.md (the summary table) and
spec/30_encoding.md R71 (the instruction's fields). Every value is unsigned and bit 0 is the least
significant bit (spec/00_scope.md R12). -/

namespace Sys2Proof

/-- A memory byte or a general register: 8 bits. -/
abbrev Byte := BitVec 8

/-- `PC`, `I`, a stack entry, an instruction word: 16 bits. -/
abbrev Word := BitVec 16

/-- A register index field `x` or `y`: 4 bits, all 16 values legal (R73). -/
abbrev Reg := BitVec 4

/-- The row count `n` of DRW: 4 bits. -/
abbrev Count := BitVec 4

/-- The address operand `nnn`: 12 bits. -/
abbrev Addr := BitVec 12

/-- A logical key code 0x0 to 0xF. -/
abbrev Key := BitVec 4

end Sys2Proof
end

