-- ==== Sys2Proof/Syntax.lean ====
section
/-! DEFINITION. The instruction set: one constructor per row of spec/opcode_table.json
(spec/30_encoding.md R75 to R79, 35 rows), with the operand fields of its row. -/

namespace Sys2Proof

/-- One decoded instruction. The operand letters are those of R71. -/
inductive Instr where
  /-- HALT, `0000` -/
  | halt
  /-- CLS, `00E0` -/
  | cls
  /-- RET, `00EE` -/
  | ret
  /-- JP nnn, `1nnn` -/
  | jp (nnn : Addr)
  /-- CALL nnn, `2nnn` -/
  | call (nnn : Addr)
  /-- SE Vx,kk, `3xkk` -/
  | seImm (x : Reg) (kk : Byte)
  /-- SNE Vx,kk, `4xkk` -/
  | sneImm (x : Reg) (kk : Byte)
  /-- SE Vx,Vy, `5xy0` -/
  | seReg (x y : Reg)
  /-- LD Vx,kk, `6xkk` -/
  | ldImm (x : Reg) (kk : Byte)
  /-- ADD Vx,kk, `7xkk` -/
  | addImm (x : Reg) (kk : Byte)
  /-- LD Vx,Vy, `8xy0` -/
  | ldReg (x y : Reg)
  /-- OR Vx,Vy, `8xy1` -/
  | orReg (x y : Reg)
  /-- AND Vx,Vy, `8xy2` -/
  | andReg (x y : Reg)
  /-- XOR Vx,Vy, `8xy3` -/
  | xorReg (x y : Reg)
  /-- ADD Vx,Vy, `8xy4` -/
  | addReg (x y : Reg)
  /-- SUB Vx,Vy, `8xy5` -/
  | sub (x y : Reg)
  /-- SHR Vx,Vy, `8xy6` -/
  | shr (x y : Reg)
  /-- SUBN Vx,Vy, `8xy7` -/
  | subn (x y : Reg)
  /-- SHL Vx,Vy, `8xyE` -/
  | shl (x y : Reg)
  /-- SNE Vx,Vy, `9xy0` -/
  | sneReg (x y : Reg)
  /-- LD I,nnn, `Annn` -/
  | ldI (nnn : Addr)
  /-- JP V0,nnn, `Bnnn`: the row has both fields `nnn` and `x = nnn[11:8]` -/
  | jpV0 (nnn : Addr) (x : Reg)
  /-- RND Vx,kk, `Cxkk` -/
  | rnd (x : Reg) (kk : Byte)
  /-- DRW Vx,Vy,n, `Dxyn` -/
  | drw (x y : Reg) (n : Count)
  /-- SKP Vx, `Ex9E` -/
  | skp (x : Reg)
  /-- SKNP Vx, `ExA1` -/
  | sknp (x : Reg)
  /-- LD Vx,DT, `Fx07` -/
  | ldVxDt (x : Reg)
  /-- LD Vx,K, `Fx0A` -/
  | ldVxK (x : Reg)
  /-- LD DT,Vx, `Fx15` -/
  | ldDtVx (x : Reg)
  /-- LD ST,Vx, `Fx18` -/
  | ldStVx (x : Reg)
  /-- ADD I,Vx, `Fx1E` -/
  | addI (x : Reg)
  /-- LD F,Vx, `Fx29` -/
  | ldF (x : Reg)
  /-- LD B,Vx, `Fx33` -/
  | ldB (x : Reg)
  /-- LD [I],Vx, `Fx55`: `x` is decoded and ignored -/
  | storeRegs (x : Reg)
  /-- LD Vx,[I], `Fx65`: `x` is decoded and ignored -/
  | loadRegs (x : Reg)
deriving DecidableEq, Repr

end Sys2Proof
end

