-- ==== Sys2Proof/WellFormed.lean ====
section
/-! DEFINITION. Which terms of `Instr` are instructions. The types of the fields bound every operand
(all 16 registers, all 256 immediates, all 4096 addresses, all 16 counts are legal: spec/30_encoding.md
R73), so one check remains: the two overlapping fields of JP V0,nnn must agree. -/

namespace Sys2Proof

/-- `x = nnn[11:8]`, the register number a jump-with-offset word carries inside its address (R72, R125). -/
def jumpRegField (nnn : Addr) : Reg := nnn.extractLsb' 8 4

/-- A term that some instruction word stands for. -/
def Instr.wellFormed : Instr → Bool
  | .jpV0 nnn x => x == jumpRegField nnn
  | .halt | .cls | .ret => true
  | .jp _ | .call _ | .ldI _ => true
  | .seImm _ _ | .sneImm _ _ | .ldImm _ _ | .addImm _ _ | .rnd _ _ => true
  | .seReg _ _ | .sneReg _ _ | .ldReg _ _ | .orReg _ _ | .andReg _ _ | .xorReg _ _ => true
  | .addReg _ _ | .sub _ _ | .shr _ _ | .subn _ _ | .shl _ _ => true
  | .drw _ _ _ => true
  | .skp _ | .sknp _ | .ldVxK _ => true
  | .ldVxDt _ | .ldDtVx _ | .ldStVx _ => true
  | .addI _ | .ldF _ | .ldB _ | .storeRegs _ | .loadRegs _ => true

end Sys2Proof
end

