-- ==== Sys2Proof/Decode.lean ====
section
/-! DEFINITION. The decoder, total on all 65536 words (spec/30_encoding.md R70 to R80), the encoder
written from the same patterns, and the table of fixed bits (mask and match) of spec/opcode_table.json. -/

namespace Sys2Proof

/-! ## Fields (R71) -/

/-- `op = w[15:12]` -/
def fieldOp (w : Word) : BitVec 4 := w.extractLsb' 12 4
/-- `nnn = w[11:0]` -/
def fieldNnn (w : Word) : Addr := w.extractLsb' 0 12
/-- `x = w[11:8]` -/
def fieldX (w : Word) : Reg := w.extractLsb' 8 4
/-- `y = w[7:4]` -/
def fieldY (w : Word) : Reg := w.extractLsb' 4 4
/-- `kk = w[7:0]` -/
def fieldKk (w : Word) : Byte := w.extractLsb' 0 8
/-- `n = w[3:0]` -/
def fieldN (w : Word) : Count := w.extractLsb' 0 4

/-! ## Decoding -/

/-- Why bytes are not an instruction. -/
inductive DecodeError where
  /-- The word matches no row of the opcode map (R80); it carries the literal value. -/
  | unknownOpcode (w : Word)
  /-- Fewer than the two bytes of a word were given (R70). -/
  | truncated
deriving DecidableEq, Repr

/-- Class 0 (R75): three full-word patterns. -/
def decodeClass0 (w : Word) : Except DecodeError Instr :=
  if w = 0x0000#16 then .ok .halt
  else if w = 0x00E0#16 then .ok .cls
  else if w = 0x00EE#16 then .ok .ret
  else .error (.unknownOpcode w)

/-- Class 8 (R77): the selector is `n`. -/
def decodeClass8 (w : Word) : Except DecodeError Instr :=
  match (fieldN w).toNat with
  | 0x0 => .ok (.ldReg (fieldX w) (fieldY w))
  | 0x1 => .ok (.orReg (fieldX w) (fieldY w))
  | 0x2 => .ok (.andReg (fieldX w) (fieldY w))
  | 0x3 => .ok (.xorReg (fieldX w) (fieldY w))
  | 0x4 => .ok (.addReg (fieldX w) (fieldY w))
  | 0x5 => .ok (.sub (fieldX w) (fieldY w))
  | 0x6 => .ok (.shr (fieldX w) (fieldY w))
  | 0x7 => .ok (.subn (fieldX w) (fieldY w))
  | 0xE => .ok (.shl (fieldX w) (fieldY w))
  | _ => .error (.unknownOpcode w)

/-- Class E (R78): the selector is `kk`. -/
def decodeClassE (w : Word) : Except DecodeError Instr :=
  match (fieldKk w).toNat with
  | 0x9E => .ok (.skp (fieldX w))
  | 0xA1 => .ok (.sknp (fieldX w))
  | _ => .error (.unknownOpcode w)

/-- Class F (R79): the selector is `kk`. -/
def decodeClassF (w : Word) : Except DecodeError Instr :=
  match (fieldKk w).toNat with
  | 0x07 => .ok (.ldVxDt (fieldX w))
  | 0x0A => .ok (.ldVxK (fieldX w))
  | 0x15 => .ok (.ldDtVx (fieldX w))
  | 0x18 => .ok (.ldStVx (fieldX w))
  | 0x1E => .ok (.addI (fieldX w))
  | 0x29 => .ok (.ldF (fieldX w))
  | 0x33 => .ok (.ldB (fieldX w))
  | 0x55 => .ok (.storeRegs (fieldX w))
  | 0x65 => .ok (.loadRegs (fieldX w))
  | _ => .error (.unknownOpcode w)

/-- The opcode map (R74 to R79): the class selects the format; every fixed bit is compared (R80).
A class is 4 bits, so no word reaches the last arm. -/
def decodeWord (w : Word) : Except DecodeError Instr :=
  match (fieldOp w).toNat with
  | 0x0 => decodeClass0 w
  | 0x1 => .ok (.jp (fieldNnn w))
  | 0x2 => .ok (.call (fieldNnn w))
  | 0x3 => .ok (.seImm (fieldX w) (fieldKk w))
  | 0x4 => .ok (.sneImm (fieldX w) (fieldKk w))
  | 0x5 => if (fieldN w).toNat = 0 then .ok (.seReg (fieldX w) (fieldY w)) else .error (.unknownOpcode w)
  | 0x6 => .ok (.ldImm (fieldX w) (fieldKk w))
  | 0x7 => .ok (.addImm (fieldX w) (fieldKk w))
  | 0x8 => decodeClass8 w
  | 0x9 => if (fieldN w).toNat = 0 then .ok (.sneReg (fieldX w) (fieldY w)) else .error (.unknownOpcode w)
  | 0xA => .ok (.ldI (fieldNnn w))
  | 0xB => .ok (.jpV0 (fieldNnn w) (fieldX w))
  | 0xC => .ok (.rnd (fieldX w) (fieldKk w))
  | 0xD => .ok (.drw (fieldX w) (fieldY w) (fieldN w))
  | 0xE => decodeClassE w
  | 0xF => decodeClassF w
  | _ => .error (.unknownOpcode w)

/-- The word of two fetched bytes: the byte at the lower address is the high byte (R50, R70). -/
def wordOfBytes (hi lo : Byte) : Word := BitVec.ofNat 16 (hi.toNat * 256 + lo.toNat)

/-- The high byte of a word, which stands at the lower address. -/
def highByte (w : Word) : Byte := w.extractLsb' 8 8
/-- The low byte of a word. -/
def lowByte (w : Word) : Byte := w.extractLsb' 0 8

/-- Decodes one instruction from the front of a byte string and answers the rest with it. -/
def decodeBytes : List Byte → Except DecodeError (Instr × List Byte)
  | hi :: lo :: rest =>
    match decodeWord (wordOfBytes hi lo) with
    | .ok i => .ok (i, rest)
    | .error e => .error e
  | _ => .error .truncated

/-- The instruction the decoder reads from a table word: bits above `nbits` are 0, the word is laid out
high byte first as the hardware stores it (R50), and the decoder reads those bytes. -/
def decodeTableWord (nbits w : Nat) : Option Instr :=
  let word : Word := BitVec.ofNat 16 (w % 2 ^ nbits)
  match decodeBytes [highByte word, lowByte word] with
  | .ok (i, _) => some i
  | .error _ => none

/-! ## Encoding (R72, R75 to R79) -/

/-- Format `NNN`: class and address. -/
def packNnn (op : Nat) (nnn : Addr) : Word := BitVec.ofNat 16 (op * 0x1000 + nnn.toNat)
/-- Formats `XKK` and `X`: class, register, immediate or selector byte. -/
def packXkk (op : Nat) (x : Reg) (kk : Byte) : Word :=
  BitVec.ofNat 16 (op * 0x1000 + x.toNat * 0x100 + kk.toNat)
/-- Formats `XY` and `XYN`: class, two registers, selector or count. -/
def packXyn (op : Nat) (x y : Reg) (n : Count) : Word :=
  BitVec.ofNat 16 (op * 0x1000 + x.toNat * 0x100 + y.toNat * 0x10 + n.toNat)

/-- The instruction word of a well-formed instruction. -/
def encode : Instr → Word
  | .halt => 0x0000#16
  | .cls => 0x00E0#16
  | .ret => 0x00EE#16
  | .jp nnn => packNnn 0x1 nnn
  | .call nnn => packNnn 0x2 nnn
  | .seImm x kk => packXkk 0x3 x kk
  | .sneImm x kk => packXkk 0x4 x kk
  | .seReg x y => packXyn 0x5 x y 0x0#4
  | .ldImm x kk => packXkk 0x6 x kk
  | .addImm x kk => packXkk 0x7 x kk
  | .ldReg x y => packXyn 0x8 x y 0x0#4
  | .orReg x y => packXyn 0x8 x y 0x1#4
  | .andReg x y => packXyn 0x8 x y 0x2#4
  | .xorReg x y => packXyn 0x8 x y 0x3#4
  | .addReg x y => packXyn 0x8 x y 0x4#4
  | .sub x y => packXyn 0x8 x y 0x5#4
  | .shr x y => packXyn 0x8 x y 0x6#4
  | .subn x y => packXyn 0x8 x y 0x7#4
  | .shl x y => packXyn 0x8 x y 0xE#4
  | .sneReg x y => packXyn 0x9 x y 0x0#4
  | .ldI nnn => packNnn 0xA nnn
  | .jpV0 nnn _ => packNnn 0xB nnn
  | .rnd x kk => packXkk 0xC x kk
  | .drw x y n => packXyn 0xD x y n
  | .skp x => packXkk 0xE x 0x9E#8
  | .sknp x => packXkk 0xE x 0xA1#8
  | .ldVxDt x => packXkk 0xF x 0x07#8
  | .ldVxK x => packXkk 0xF x 0x0A#8
  | .ldDtVx x => packXkk 0xF x 0x15#8
  | .ldStVx x => packXkk 0xF x 0x18#8
  | .addI x => packXkk 0xF x 0x1E#8
  | .ldF x => packXkk 0xF x 0x29#8
  | .ldB x => packXkk 0xF x 0x33#8
  | .storeRegs x => packXkk 0xF x 0x55#8
  | .loadRegs x => packXkk 0xF x 0x65#8

/-- The bytes of an instruction in memory order (R50). -/
def encodeBytes (i : Instr) : List Byte := [highByte (encode i), lowByte (encode i)]

/-! ## The table's fixed bits (R74) -/

/-- The mask and the match of an instruction's row in spec/opcode_table.json. -/
def rowOf : Instr → Word × Word
  | .halt => (0xFFFF#16, 0x0000#16)
  | .cls => (0xFFFF#16, 0x00E0#16)
  | .ret => (0xFFFF#16, 0x00EE#16)
  | .jp _ => (0xF000#16, 0x1000#16)
  | .call _ => (0xF000#16, 0x2000#16)
  | .seImm _ _ => (0xF000#16, 0x3000#16)
  | .sneImm _ _ => (0xF000#16, 0x4000#16)
  | .seReg _ _ => (0xF00F#16, 0x5000#16)
  | .ldImm _ _ => (0xF000#16, 0x6000#16)
  | .addImm _ _ => (0xF000#16, 0x7000#16)
  | .ldReg _ _ => (0xF00F#16, 0x8000#16)
  | .orReg _ _ => (0xF00F#16, 0x8001#16)
  | .andReg _ _ => (0xF00F#16, 0x8002#16)
  | .xorReg _ _ => (0xF00F#16, 0x8003#16)
  | .addReg _ _ => (0xF00F#16, 0x8004#16)
  | .sub _ _ => (0xF00F#16, 0x8005#16)
  | .shr _ _ => (0xF00F#16, 0x8006#16)
  | .subn _ _ => (0xF00F#16, 0x8007#16)
  | .shl _ _ => (0xF00F#16, 0x800E#16)
  | .sneReg _ _ => (0xF00F#16, 0x9000#16)
  | .ldI _ => (0xF000#16, 0xA000#16)
  | .jpV0 _ _ => (0xF000#16, 0xB000#16)
  | .rnd _ _ => (0xF000#16, 0xC000#16)
  | .drw _ _ _ => (0xF000#16, 0xD000#16)
  | .skp _ => (0xF0FF#16, 0xE09E#16)
  | .sknp _ => (0xF0FF#16, 0xE0A1#16)
  | .ldVxDt _ => (0xF0FF#16, 0xF007#16)
  | .ldVxK _ => (0xF0FF#16, 0xF00A#16)
  | .ldDtVx _ => (0xF0FF#16, 0xF015#16)
  | .ldStVx _ => (0xF0FF#16, 0xF018#16)
  | .addI _ => (0xF0FF#16, 0xF01E#16)
  | .ldF _ => (0xF0FF#16, 0xF029#16)
  | .ldB _ => (0xF0FF#16, 0xF033#16)
  | .storeRegs _ => (0xF0FF#16, 0xF055#16)
  | .loadRegs _ => (0xF0FF#16, 0xF065#16)

/-- One instruction of each row of classes 0 to 7, in the table's order. -/
def rowHeadsLow : List Instr :=
  [.halt, .cls, .ret, .jp 0#12, .call 0#12, .seImm 0#4 0#8, .sneImm 0#4 0#8, .seReg 0#4 0#4,
   .ldImm 0#4 0#8, .addImm 0#4 0#8]

/-- One instruction of each row of class 8. -/
def rowHeads8 : List Instr :=
  [.ldReg 0#4 0#4, .orReg 0#4 0#4, .andReg 0#4 0#4, .xorReg 0#4 0#4, .addReg 0#4 0#4, .sub 0#4 0#4,
   .shr 0#4 0#4, .subn 0#4 0#4, .shl 0#4 0#4]

/-- One instruction of each row of classes 9 to F. -/
def rowHeadsHigh : List Instr :=
  [.sneReg 0#4 0#4, .ldI 0#12, .jpV0 0#12 0#4, .rnd 0#4 0#8, .drw 0#4 0#4 0#4, .skp 0#4, .sknp 0#4,
   .ldVxDt 0#4, .ldVxK 0#4, .ldDtVx 0#4, .ldStVx 0#4, .addI 0#4, .ldF 0#4, .ldB 0#4, .storeRegs 0#4,
   .loadRegs 0#4]

/-- One instruction of each row, in the table's order; their rows are the opcode table. -/
def rowHeads : List Instr := rowHeadsLow ++ rowHeads8 ++ rowHeadsHigh

/-- The opcode table: the 35 pairs of mask and match. -/
def opcodeRows : List (Word × Word) := rowHeads.map rowOf

/-- A word matches a row when its fixed bits do (R74): `w & mask = match`. -/
def matchesRow (w : Word) (row : Word × Word) : Bool := w &&& row.1 == row.2

end Sys2Proof
end

