-- ==== Sys2Proof/Config.lean ====
section
/-! DEFINITION. The fixed sizes of the hardware (spec/00_scope.md R6), the shape of its parameters
(the quirk profile R7, the key table R8), and the one free value of the model: the byte a RND draws
when the host has lined none up. -/

namespace Sys2Proof

/-- Number of addressable bytes (R6, R39). -/
abbrev Config.memSize : Nat := 4096

/-- Capacity of the call stack (R6, R29). -/
abbrev Config.stackDepth : Nat := 16

/-- Columns of the display (R6, R34). -/
abbrev Config.screenWidth : Nat := 64

/-- Rows of the display (R6, R34). -/
abbrev Config.screenHeight : Nat := 32

/-- Where a program is loaded and where `PC` starts (R6, R23). -/
abbrev Config.loadAddr : Nat := 0x200

/-- The largest ROM, in bytes (R6, R10, R193). -/
abbrev Config.maxRom : Nat := 3584

/-- The highest address a fetch may start at (R57). -/
abbrev Config.lastFetch : Nat := 4094

/-- The quirk profile `Q`: four independent bits, fixed for the lifetime of a run (R7, R38). -/
structure Quirks where
  /-- SHR and SHL first copy `V[y]` into `V[x]`. -/
  shiftCopy : Bool
  /-- jump-with-offset adds `V[x]` and not `V[0]`. -/
  jumpVx : Bool
  /-- ADD I,Vx writes `VF`. -/
  addiVf : Bool
  /-- block load and store advance `I` by 16. -/
  blockInc : Bool
deriving DecidableEq, Repr

/-- The two instruction-set tokens of the command line (R7, R195). -/
inductive ProfileToken where
  | cosmac
  | super
deriving DecidableEq, Repr

/-- `KEYMAP`: the partial function from input symbols to key codes (R8), as a list of pairs. -/
abbrev KeyMap := List (Byte × Key)

/-- `KEYMAP` is defined on exactly 16 symbols (R8). -/
abbrev KeyMap.wf (m : KeyMap) : Prop := m.length = 16 ∧ (m.map Prod.fst).Nodup

/-- The free byte of the `n`-th draw of the random source when the host's random port lists no byte
(R11, R44, R126): no body, so that nothing can be proved of its value (assumption 5). -/
opaque Config.freeRnd : Nat → Byte

end Sys2Proof
end

