-- ==== Sys2Proof/Machine/Params.lean ====
section
/-! DEFINITION. The values of the hardware's parameters: the font bytes (spec/70_reset_and_hazards.md
R192), the two named quirk profiles (spec/00_scope.md R7), and what State.reset takes for the arguments
that only the host knows (assumptions 3 and 4). -/

namespace Sys2Proof.Machine

/-- The default `FONT`, glyphs 0 to 7 (R192). PRESUMED: the spec's own table from general knowledge. -/
def fontLow : List Byte :=
  [0xF0, 0x90, 0x90, 0x90, 0xF0] ++ [0x20, 0x60, 0x20, 0x20, 0x70]
  ++ [0xF0, 0x10, 0xF0, 0x80, 0xF0] ++ [0xF0, 0x10, 0xF0, 0x10, 0xF0]
  ++ [0x90, 0x90, 0xF0, 0x10, 0x10] ++ [0xF0, 0x80, 0xF0, 0x10, 0xF0]
  ++ [0xF0, 0x80, 0xF0, 0x90, 0xF0] ++ [0xF0, 0x10, 0x20, 0x40, 0x40]

/-- The default `FONT`, glyphs 8 to F (R192). -/
def fontHigh : List Byte :=
  [0xF0, 0x90, 0xF0, 0x90, 0xF0] ++ [0xF0, 0x90, 0xF0, 0x10, 0xF0]
  ++ [0xF0, 0x90, 0xF0, 0x90, 0x90] ++ [0xE0, 0x90, 0xE0, 0x90, 0xE0]
  ++ [0xF0, 0x80, 0x80, 0x80, 0xF0] ++ [0xE0, 0x90, 0x90, 0x90, 0xE0]
  ++ [0xF0, 0x80, 0xF0, 0x80, 0xF0] ++ [0xF0, 0x80, 0xF0, 0x80, 0x80]

/-- The default `FONT`: 16 glyphs of 5 bytes, glyph `d` at `5 * d` (R9, R192). -/
def defaultFont : List Byte := fontLow ++ fontHigh

/-- The profile a token selects (R7). The binding is the spec's decision D2; no instruction's meaning
names a profile, each reads the bits of `Q` it depends on. -/
def profileOf : ProfileToken → Quirks
  | .cosmac => { shiftCopy := true, jumpVx := false, addiVf := false, blockInc := true }
  | .super => { shiftCopy := false, jumpVx := true, addiVf := true, blockInc := false }

/-- The profile of State.reset. DESIGN CHOICE (assumption 3): the spec leaves it OPEN (D3). -/
def resetProfile : Quirks := profileOf .cosmac

/-- The key table of State.reset. DESIGN CHOICE (assumption 4): symbol `k` is key `k`; the spec gives
no contents (R8). -/
def resetKeyMap : KeyMap := (List.range 16).map fun k => (BitVec.ofNat 8 k, BitVec.ofNat 4 k)

end Sys2Proof.Machine
end

