-- ==== Sys2Proof/Machine/State.lean ====
section
/-! DEFINITION. The machine's state (spec/10_state.md, the summary table, R20 to R46), the reasons a step
can stop, and the state after reset (spec/70_reset_and_hazards.md R191). -/

namespace Sys2Proof.Machine

/-- Memory: the bytes that differ from what an unlisted address reads as (`unlisted`, Ops.lean), by
strictly rising address. -/
abbrev Memory := List Host.Cell

/-- The display surface: 32 rows from the top, a row's bit `x` being the pixel of column `x` from the
left, 1 meaning lit (R34). -/
abbrev FrameBuffer := Vector (BitVec 64) 32

/-- `STATUS` (R42). -/
inductive Status where
  | running
  | halted
  | faulted
deriving DecidableEq, Repr

/-- The two-bit code of a status (R42). -/
def Status.code : Status → BitVec 2
  | .running => 0
  | .halted => 1
  | .faulted => 2

/-- The fatal conditions (spec/60_exceptions.md R161). -/
inductive FaultCause where
  | none
  | unknownOpcode
  | stackOverflow
  | stackUnderflow
  | unmappedKey
  | memoryOutOfRange
  | fetchOutOfRange
deriving DecidableEq, Repr

/-- The three-bit code of a cause (R161). -/
def FaultCause.code : FaultCause → BitVec 3
  | .none => 0
  | .unknownOpcode => 1
  | .stackOverflow => 2
  | .stackUnderflow => 3
  | .unmappedKey => 4
  | .memoryOutOfRange => 5
  | .fetchOutOfRange => 6

/-- `FAULT_CAUSE`, `FAULT_INFO`, `FAULT_PC` (R43). -/
structure FaultRecord where
  cause : FaultCause
  info : Word
  pc : Word
deriving DecidableEq, Repr

/-- The record after reset: nothing recorded (R43). -/
def FaultRecord.clear : FaultRecord := { cause := .none, info := 0, pc := 0 }

/-- What the host drives into the core (R11, R176): plain data that the step reads. The lists are what
the host has lined up for later; a state with other lists is another host. -/
structure HostInputs where
  /-- `KEY[0..15]` as it stands now: bit `k` is the state of key `k`, 1 meaning pressed (R36). -/
  keys : BitVec 16
  /-- The key states the host drives after each of the next completed cycles; when the list is empty
  the keys stay (assumption 7). -/
  keyFeed : List (BitVec 16)
  /-- The symbols the host supplies to the next key-waits, the earliest first (R142). -/
  syms : List Byte
  /-- The bytes the random source has lined up for the next draws (R126). -/
  rndFeed : List Byte
  /-- The model's own count of draws so far: it numbers the free bytes of Config.freeRnd (assumption 5). -/
  draws : Nat
deriving DecidableEq, Repr

/-- Everything the spec gives the machine. -/
structure State where
  /-- `V[0..15]` (R20) -/
  v : Vector Byte 16
  /-- `I` (R27) -/
  i : Word
  /-- `PC` (R23); `pc0 + 2` while an instruction executes -/
  pc : Word
  /-- `STACK[0..15]` (R29) -/
  stack : Vector Word 16
  /-- `SP`, the number of return addresses held, 0 to 16 (R30) -/
  sp : Fin 17
  /-- `DT` (R32) -/
  dt : Byte
  /-- `ST` (R32) -/
  st : Byte
  /-- `FB[0..31][0..63]` (R34) -/
  fb : FrameBuffer
  /-- `MEM[0..4095]` (R39) -/
  mem : Memory
  /-- `Q` (R38) -/
  q : Quirks
  /-- `KEYMAP`, the host's table (R8) -/
  keymap : KeyMap
  /-- `STATUS` (R42) -/
  status : Status
  /-- the fault record (R43) -/
  record : FaultRecord
  /-- `KEY`, the key-wait channel and the random source (R176) -/
  host : HostInputs
deriving DecidableEq, Repr

/-- Why the machine has no step. None of them is a fatal condition of the hardware: that is a next state with
`STATUS = FAULTED` (R166). -/
inductive Fault where
  /-- `step` with `STATUS = HALTED`: the core performs no cycle until reset (R42). Safe: it is the spec's own end. -/
  | coreHalted
  /-- `step` with `STATUS = FAULTED`: the core performs no cycle until reset (R42). Safe: it is the spec's own end. -/
  | coreFaulted
  /-- LD Vx,K for which the host has supplied no symbol, and so the step that executes it: that cycle exists only
  together with a symbol (R45, R142). The machine is stuck in the state the step was asked of, until the host
  supplies one (assumption 8). Safe: the spec has no step there either. -/
  | awaitingSymbol
deriving DecidableEq, Repr

/-- Why an instruction has no meaning. -/
inductive Refusal where
  /-- An arm of `exec` without a meaning, by the table's mnemonic. Safe: the model stops. No arm raises it. -/
  | notModelled (mnemonic : String)
deriving DecidableEq, Repr

/-- Inputs at rest: no key pressed, nothing lined up. DESIGN CHOICE (assumption 6): the host drives them. -/
def HostInputs.idle : HostInputs := { keys := 0, keyFeed := [], syms := [], rndFeed := [], draws := 0 }

/-- The machine right after reset (R191), with an empty ROM: memory lists nothing, so it reads as the
font and zeros. `Q`, `KEYMAP` and the inputs are the host's; what stands for them here is named in
assumptions 3, 4 and 6, the stack's contents in assumption 2. -/
def State.reset : State where
  v := Vector.replicate 16 0
  i := 0
  pc := 0x200
  stack := Vector.replicate 16 0
  sp := 0
  dt := 0
  st := 0
  fb := Vector.replicate 32 0#64
  mem := []
  q := resetProfile
  keymap := resetKeyMap
  status := .running
  record := .clear
  host := .idle

end Sys2Proof.Machine
end

