-- ==== Sys2Proof/Machine/Ops.lean ====
section
/-! DEFINITION. The named operations over memory, registers, stack, host inputs and status that the
instructions' meanings share; raising a fault (spec/60_exceptions.md R166) and the end of a cycle
(spec/40_cycle_driver.md R94) among them. -/

namespace Sys2Proof.Machine

/-! ## Memory (spec/20_memory.md) -/

/-- What an address reads as when memory lists nothing there: the contents after reset with an empty
ROM, that is the font at 0x000 to 0x04F and 0 elsewhere (R40, R191). -/
def unlisted (a : Nat) : Byte := defaultFont.getD a 0

/-- The canonical form: addresses strictly rising and inside memory, and no entry equal to what its
address reads as unlisted. -/
abbrev Memory.wf (m : Memory) : Prop :=
  m.Pairwise (fun c d => c.1 < d.1) ∧ ∀ c ∈ m, c.1 < Config.memSize ∧ c.2 ≠ unlisted c.1

/-- `MemRead(a, 1)` (R14). -/
def Memory.read : Memory → Nat → Byte
  | [], a => unlisted a
  | (b, x) :: m, a => if a = b then x else Memory.read m a

/-- Lists `v` at `a`, keeping the addresses rising. -/
def Memory.enter : Memory → Nat → Byte → Memory
  | [], a, v => [(a, v)]
  | (b, x) :: m, a, v =>
    if a < b then (a, v) :: (b, x) :: m
    else if a = b then (a, v) :: m
    else (b, x) :: Memory.enter m a v

/-- Lists nothing at `a`. -/
def Memory.drop (m : Memory) (a : Nat) : Memory := m.filter fun c => c.1 != a

/-- `MemWrite(a, 1, v)` (R14, R54): changes exactly the byte at `a`. There is no byte above 4095, and
every caller checks the range first (R56). -/
def Memory.write (m : Memory) (a : Nat) (v : Byte) : Memory :=
  if a < Config.memSize then
    if v = unlisted a then m.drop a else m.enter a v
  else m

/-- Writes consecutive bytes from `a` on. -/
def Memory.writeBytes : Memory → Nat → List Byte → Memory
  | m, _, [] => m
  | m, a, b :: bs => Memory.writeBytes (m.write a b) (a + 1) bs

/-! ## Single fields -/

/-- `V[x]` (R13). -/
def State.getV (s : State) (x : Reg) : Byte := s.v[x.toNat]'x.isLt

/-- `V[x] <- b` (R13). -/
def State.setV (s : State) (x : Reg) (b : Byte) : State := { s with v := s.v.set x.toNat b x.isLt }

/-- `VF`, register 15 (R21). -/
abbrev regF : Reg := 15#4

/-- `V[0..15] <- v`. -/
def State.setAllV (s : State) (v : Vector Byte 16) : State := { s with v := v }

/-- `I <- a`. -/
def State.setI (s : State) (a : Word) : State := { s with i := a }

/-- `PC <- a`. -/
def State.setPc (s : State) (a : Word) : State := { s with pc := a }

/-- The stack's entries and its pointer. -/
def State.setStack (s : State) (stack : Vector Word 16) (sp : Fin 17) : State :=
  { s with stack := stack, sp := sp }

/-- `DT <- b`. -/
def State.setDt (s : State) (b : Byte) : State := { s with dt := b }

/-- `ST <- b`. -/
def State.setSt (s : State) (b : Byte) : State := { s with st := b }

/-- The display surface. -/
def State.setFb (s : State) (fb : FrameBuffer) : State := { s with fb := fb }

/-- Memory. -/
def State.setMem (s : State) (m : Memory) : State := { s with mem := m }

/-- `Q`, written by reset alone (R38). -/
def State.setQ (s : State) (q : Quirks) : State := { s with q := q }

/-- The host's inputs. -/
def State.setHost (s : State) (h : HostInputs) : State := { s with host := h }

/-- `STATUS` and the fault record. -/
def State.setStatus (s : State) (status : Status) (record : FaultRecord) : State :=
  { s with status := status, record := record }

/-! ## Results and flags -/

/-- The write order of R22 and R122: the result into `V[x]`, then the flag into `VF`. -/
def State.setVWithFlag (s : State) (x : Reg) (result flag : Byte) : State :=
  (s.setV x result).setV regF flag

/-! ## Program counter -/

/-- The address of an instruction, `pc0`, while it executes: `PC` is `pc0 + 2` then (R23, R91). -/
def State.pc0 (s : State) : Word := s.pc - 2#16

/-- A skip: one extra instruction width when the condition holds (R96, R103). -/
def State.skipIf (s : State) (cond : Bool) : State := if cond then s.setPc (s.pc + 2#16) else s

/-! ## Call stack -/

/-- Push of `PC` (R101): `STACK[SP] <- PC`, `SP <- SP + 1`; none when 16 entries are held. -/
def State.pushPc (s : State) : Option State :=
  if h : s.sp.val < 16 then
    some (s.setStack (s.stack.set s.sp.val s.pc h) ⟨s.sp.val + 1, by omega⟩)
  else none

/-- Pop into `PC` (R102): `SP <- SP - 1`, `PC <- STACK[SP]`; none when the stack is empty. The popped
entry is not erased. -/
def State.popPc (s : State) : Option State :=
  if h : 0 < s.sp.val then
    some ((s.setStack s.stack ⟨s.sp.val - 1, by omega⟩).setPc (s.stack[s.sp.val - 1]'(by omega)))
  else none

/-! ## Halt and faults -/

/-- `halt` (R156): the status alone changes. -/
def State.halt (s : State) : State := s.setStatus .halted s.record

/-- `raise Fault(cause, info)` (R166) for an instruction fetched at `pc0`. Nothing is saved elsewhere and
control goes nowhere; there is no return from it (R171). -/
def State.raiseAt (s : State) (pc0 : Word) (cause : FaultCause) (info : Word) : State :=
  s.setStatus .faulted { cause := cause, info := info, pc := pc0 }

/-- `raise Fault(cause, info)` from the execute phase, where `PC` is `pc0 + 2`. -/
def State.raise (s : State) (cause : FaultCause) (info : Word) : State := s.raiseAt s.pc0 cause info

/-! ## The address range of an access at `I` (R56) -/

/-- The `m` bytes from `a` on lie inside memory. -/
def inMemory (a : Word) (m : Nat) : Bool := m == 0 || a.toNat + m - 1 ≤ 4095

/-- The first address above 4095 that an access from `a` on would touch: `max(a, 4096)`. -/
def firstOutside (a : Word) : Word := BitVec.ofNat 16 (max a.toNat 4096)

/-- The fault of an access at `I` that leaves memory: raised before any effect (R56, R167). -/
def State.raiseRange (s : State) : State := s.raise .memoryOutOfRange (firstOutside s.i)

/-! ## Host inputs -/

/-- The byte a RND draws (R126): the next one lined up, else a free byte. -/
def State.rndByte (s : State) : Byte :=
  match s.host.rndFeed with
  | b :: _ => b
  | [] => Config.freeRnd s.host.draws

/-- The random source after a draw. -/
def State.afterDraw (s : State) : State :=
  s.setHost { s.host with rndFeed := s.host.rndFeed.tail, draws := s.host.draws + 1 }

/-- The key-wait channel after a symbol is consumed (R142: exactly one per execution). -/
def State.afterSym (s : State) : State := s.setHost { s.host with syms := s.host.syms.tail }

/-- `KEYMAP(sym)`; none outside its domain (R8, R142). -/
def keyOf (m : KeyMap) (sym : Byte) : Option Key := m.lookup sym

/-! ## Fetch and the end of a cycle (spec/40_cycle_driver.md) -/

/-- A fetch needs both bytes inside memory (R57). -/
def State.canFetch (s : State) : Bool := s.pc.toNat ≤ Config.lastFetch

/-- `MemRead(PC, 2)`: big-endian (R50, R91). -/
def State.fetchWord (s : State) : Word :=
  wordOfBytes (s.mem.read s.pc.toNat) (s.mem.read (s.pc.toNat + 1))

/-- `PC <- (PC + 2) mod 65536`, before the instruction executes (R91). -/
def State.advance (s : State) : State := s.setPc (s.pc + 2#16)

/-- A timer's step: down by one, saturating at 0 (R94). -/
def timerDown (t : Byte) : Byte := if t = 0 then 0 else t - 1

/-- The timer step (R94). -/
def State.timerStep (s : State) : State := (s.setDt (timerDown s.dt)).setSt (timerDown s.st)

/-- Between two cycles the host may change `KEY` (R47): the next key states it has lined up. -/
def HostInputs.nextKeys (h : HostInputs) : HostInputs :=
  match h.keyFeed with
  | k :: ks => { h with keys := k, keyFeed := ks }
  | [] => h

/-- The end of a cycle whose execute phase left `t`: a timer step and the host's next key states if it ended
`done` (R94), nothing after a halt or a fault (R95). -/
def endCycle (t : State) : State :=
  if t.status = .running then t.timerStep.setHost t.host.nextKeys else t

/-- A fetch whose range check fails: `PC` is not advanced and is both `FAULT_PC` and `FAULT_INFO` (R168). -/
def State.raiseFetch (s : State) : State := s.raiseAt s.pc .fetchOutOfRange s.pc

/-- Execute of a word that matches no row (R157): the literal word is reported. -/
def State.raiseUnknown (s : State) (w : Word) : State := s.raise .unknownOpcode w

end Sys2Proof.Machine
end

