-- ==== Sys2Proof/Machine/Flags.lean ====
section
/-! DEFINITION. Every flag the hardware computes, each a value for `VF` (spec/10_state.md R26). -/

namespace Sys2Proof.Machine

/-- A flag as a register value: 1 or 0. -/
def flagByte (b : Bool) : Byte := if b then 1 else 0

/-- ADD Vx,Vy: the 8-bit sum overflowed (R116). -/
def carryFlag (a b : Byte) : Byte := flagByte (decide (255 < a.toNat + b.toNat))

/-- SUB, SUBN: minuend at least subtrahend, that is no borrow (R117, R119, R121). -/
def noBorrowFlag (minuend subtrahend : Byte) : Byte := flagByte (decide (subtrahend.toNat ≤ minuend.toNat))

/-- SHR: bit 0 of the operand (R118). -/
def shrFlag (t : Byte) : Byte := flagByte (t.getLsbD 0)

/-- SHL: bit 7 of the operand (R120). -/
def shlFlag (t : Byte) : Byte := flagByte (t.getLsbD 7)

/-- ADD I,Vx: the sum leaves the 12-bit address range (R131). -/
def carry12Flag (a : Word) (b : Byte) : Byte := flagByte (decide (0x0FFF < a.toNat + b.toNat))

end Sys2Proof.Machine
end

