-- ==== Sys2Proof/Machine/Operands.lean ====
section
/-! DEFINITION. Every operand form beyond a plain register or immediate: the profile-dependent register
of the shifts and of the jump with offset, the key a register names, the bytes at `I`
(spec/44_memory_index.md R136). -/

namespace Sys2Proof.Machine

/-- A 12-bit address in a 16-bit register: zero-extended (R73). -/
def addrWord (nnn : Addr) : Word := nnn.setWidth 16

/-- A register value in 16 bits: zero-extended (R73). -/
def byteWord (b : Byte) : Word := b.setWidth 16

/-- The operand of SHR and SHL: `V[y]` under `Q.shift_copy`, else `V[x]` (R118, R120). -/
def State.shiftOperand (s : State) (x y : Reg) : Byte := if s.q.shiftCopy then s.getV y else s.getV x

/-- The offset of JP V0,nnn: `V[x]` under `Q.jump_vx`, else `V[0]` (R125). -/
def State.jumpOffset (s : State) (x : Reg) : Byte := if s.q.jumpVx then s.getV x else s.getV 0#4

/-- Key `k` is pressed: a value of 16 or more names no key and never indexes the keypad (R140). -/
def State.keyPressed (s : State) (k : Byte) : Bool := decide (k.toNat < 16) && s.host.keys.getLsbD k.toNat

/-- The address `I + k`, taken without wraparound (R136). -/
def State.atI (s : State) (k : Nat) : Nat := s.i.toNat + k

/-- The byte at `I + k`. -/
def State.readAtI (s : State) (k : Nat) : Byte := s.mem.read (s.atI k)

/-- Stores consecutive bytes at `I`. -/
def State.storeAtI (s : State) (bytes : List Byte) : State := s.setMem (s.mem.writeBytes (s.atI 0) bytes)

/-- `I` after a block transfer: advanced by 16 under `Q.block_inc` (R134, R135). -/
def State.blockAdvance (s : State) : State := if s.q.blockInc then s.setI (s.i + 16#16) else s

end Sys2Proof.Machine
end

