-- ==== Sys2Proof/Machine/Arithmetic.lean ====
section
/-! DEFINITION. The immediate and register arithmetic (spec/42_arithmetic.md R110 to R122): unsigned,
8 bits, sums and differences mod 256 (R121); operands are read before any write and the flag is written
last (R122). -/

namespace Sys2Proof.Machine

/-- LD Vx,kk (R110). -/
def execLdImm (x : Reg) (kk : Byte) (s : State) : Host.Outcome State Fault Refusal := .next (s.setV x kk)

/-- ADD Vx,kk (R111): no flag, even on wraparound. -/
def execAddImm (x : Reg) (kk : Byte) (s : State) : Host.Outcome State Fault Refusal :=
  .next (s.setV x (s.getV x + kk))

/-- LD Vx,Vy (R112). -/
def execLdReg (x y : Reg) (s : State) : Host.Outcome State Fault Refusal := .next (s.setV x (s.getV y))

/-- OR Vx,Vy (R113). -/
def execOrReg (x y : Reg) (s : State) : Host.Outcome State Fault Refusal :=
  .next (s.setV x (s.getV x ||| s.getV y))

/-- AND Vx,Vy (R114). -/
def execAndReg (x y : Reg) (s : State) : Host.Outcome State Fault Refusal :=
  .next (s.setV x (s.getV x &&& s.getV y))

/-- XOR Vx,Vy (R115). -/
def execXorReg (x y : Reg) (s : State) : Host.Outcome State Fault Refusal :=
  .next (s.setV x (s.getV x ^^^ s.getV y))

/-- ADD Vx,Vy (R116). -/
def execAddReg (x y : Reg) (s : State) : Host.Outcome State Fault Refusal :=
  .next (s.setVWithFlag x (s.getV x + s.getV y) (carryFlag (s.getV x) (s.getV y)))

/-- SUB Vx,Vy (R117): `V[x] - V[y]`. -/
def execSub (x y : Reg) (s : State) : Host.Outcome State Fault Refusal :=
  .next (s.setVWithFlag x (s.getV x - s.getV y) (noBorrowFlag (s.getV x) (s.getV y)))

/-- SHR Vx,Vy (R118): the shifted value and the flag come from one operand. -/
def execShr (x y : Reg) (s : State) : Host.Outcome State Fault Refusal :=
  .next (s.setVWithFlag x (s.shiftOperand x y >>> 1) (shrFlag (s.shiftOperand x y)))

/-- SUBN Vx,Vy (R119): `V[y] - V[x]`. -/
def execSubn (x y : Reg) (s : State) : Host.Outcome State Fault Refusal :=
  .next (s.setVWithFlag x (s.getV y - s.getV x) (noBorrowFlag (s.getV y) (s.getV x)))

/-- SHL Vx,Vy (R120). -/
def execShl (x y : Reg) (s : State) : Host.Outcome State Fault Refusal :=
  .next (s.setVWithFlag x (s.shiftOperand x y <<< 1) (shlFlag (s.shiftOperand x y)))

end Sys2Proof.Machine
end

