-- ==== Sys2Proof/Machine/ControlFlow.lean ====
section
/-! DEFINITION. The control flow instructions (spec/41_control_flow.md R100 to R107). `PC` already holds
`pc0 + 2` when a meaning runs (R91). -/

namespace Sys2Proof.Machine

/-- JP nnn (R100). -/
def execJp (nnn : Addr) (s : State) : Host.Outcome State Fault Refusal := .next (s.setPc (addrWord nnn))

/-- CALL nnn (R101): StackOverflow when 16 return addresses are held. -/
def execCall (nnn : Addr) (s : State) : Host.Outcome State Fault Refusal :=
  .next (match s.pushPc with
    | some t => t.setPc (addrWord nnn)
    | none => s.raise .stackOverflow (encode (.call nnn)))

/-- RET (R102): StackUnderflow when the stack is empty. -/
def execRet (s : State) : Host.Outcome State Fault Refusal :=
  .next (match s.popPc with
    | some t => t
    | none => s.raise .stackUnderflow (encode .ret))

/-- SE Vx,kk (R103). -/
def execSeImm (x : Reg) (kk : Byte) (s : State) : Host.Outcome State Fault Refusal :=
  .next (s.skipIf (s.getV x == kk))

/-- SE Vx,Vy (R104). -/
def execSeReg (x y : Reg) (s : State) : Host.Outcome State Fault Refusal :=
  .next (s.skipIf (s.getV x == s.getV y))

/-- SNE Vx,kk (R105). -/
def execSneImm (x : Reg) (kk : Byte) (s : State) : Host.Outcome State Fault Refusal :=
  .next (s.skipIf (s.getV x != kk))

/-- SNE Vx,Vy (R106). -/
def execSneReg (x y : Reg) (s : State) : Host.Outcome State Fault Refusal :=
  .next (s.skipIf (s.getV x != s.getV y))

end Sys2Proof.Machine
end

