-- ==== Sys2Proof/Machine/Display.lean ====
section
/-! DEFINITION. The display: CLS, and DRW with the sprite XOR compositor (spec/47_display_system.md R150
to R153). The scan follows R152's pseudocode, row by row and bit by bit, most significant bit first. -/

namespace Sys2Proof.Machine

/-- `FB[y][x]`; dark outside the grid (R34). -/
def pixelAt (fb : FrameBuffer) (x y : Nat) : Bool := if h : y < 32 then fb[y].getLsbD x else false

/-- `FB[y][x] <- FB[y][x] ^ 1`. -/
def flipPixel (fb : FrameBuffer) (x y : Nat) : FrameBuffer :=
  if h : y < 32 then fb.set y (fb[y] ^^^ BitVec.twoPow 64 x) else fb

/-- The surface and the collision flag during a scan. -/
structure Canvas where
  fb : FrameBuffer
  hit : Bool
deriving DecidableEq, Repr

/-- One sprite bit that is 1: a lit pixel under it sets the flag, and the pixel is inverted. -/
def Canvas.plot (c : Canvas) (x y : Nat) : Canvas :=
  { fb := flipPixel c.fb x y, hit := c.hit || pixelAt c.fb x y }

/-- The columns of one sprite row, stopping early at the right edge. -/
def Canvas.scanRow (b : Byte) (ox y : Nat) : List Nat → Canvas → Canvas
  | [], cv => cv
  | c :: cs, cv =>
    if 63 < ox + c then cv
    else Canvas.scanRow b ox y cs (if b.getLsbD (7 - c) then cv.plot (ox + c) y else cv)

/-- The sprite rows `rs` of the sprite at `I`, drawn from row `oy` of the grid on. -/
def Canvas.scanRows (s : State) (ox oy : Nat) : List Nat → Canvas → Canvas
  | [], cv => cv
  | r :: rs, cv => Canvas.scanRows s ox oy rs (Canvas.scanRow (s.readAtI r) ox (oy + r) (List.range 8) cv)

/-- The sprite's origin column: `V[x] mod 64` (R151). -/
def State.originX (s : State) (x : Reg) : Nat := (s.getV x).toNat % 64

/-- The sprite's origin row: `V[y] mod 32` (R151). -/
def State.originY (s : State) (y : Reg) : Nat := (s.getV y).toNat % 32

/-- The sprite rows that fall inside the grid: `min(n, 32 - oy)` (R152). -/
def State.scannedRows (s : State) (y : Reg) (n : Count) : Nat := min n.toNat (32 - s.originY y)

/-- The surface and flag that DRW leaves; the flag is clear when the scan begins. -/
def State.composed (s : State) (x y : Reg) (n : Count) : Canvas :=
  Canvas.scanRows s (s.originX x) (s.originY y) (List.range (s.scannedRows y n)) { fb := s.fb, hit := false }

/-- DRW Vx,Vy,n (R152): origins are read before `VF` is written; only scanned rows are range-checked. -/
def execDrw (x y : Reg) (n : Count) (s : State) : Host.Outcome State Fault Refusal :=
  .next (if inMemory s.i (s.scannedRows y n)
    then (s.setFb (s.composed x y n).fb).setV regF (flagByte (s.composed x y n).hit)
    else s.raiseRange)

/-- CLS (R150): every pixel dark, `VF` not written. -/
def execCls (s : State) : Host.Outcome State Fault Refusal := .next (s.setFb (Vector.replicate 32 0#64))

end Sys2Proof.Machine
end

