-- ==== Sys2Proof/Machine/IndexMemory.lean ====
section
/-! DEFINITION. The index register and memory instructions (spec/44_memory_index.md R130 to R136). Every
access at `I` checks its range before its first effect (spec/20_memory.md R56). -/

namespace Sys2Proof.Machine

/-- LD I,nnn (R130). -/
def execLdI (nnn : Addr) (s : State) : Host.Outcome State Fault Refusal := .next (s.setI (addrWord nnn))

/-- ADD I,Vx (R131): mod 65536, and under `Q.addi_vf` the 12-bit carry goes to `VF`. -/
def execAddI (x : Reg) (s : State) : Host.Outcome State Fault Refusal :=
  .next (if s.q.addiVf
    then (s.setI (s.i + byteWord (s.getV x))).setV regF (carry12Flag s.i (s.getV x))
    else s.setI (s.i + byteWord (s.getV x)))

/-- LD F,Vx (R132): the glyph address of the low nibble; memory is not accessed. -/
def execLdF (x : Reg) (s : State) : Host.Outcome State Fault Refusal :=
  .next (s.setI (byteWord (s.getV x &&& 0x0F#8) * 5#16))

/-- The decimal digits of a byte, hundreds first (R133). -/
def decimalDigits (v : Byte) : List Byte :=
  [BitVec.ofNat 8 (v.toNat / 100), BitVec.ofNat 8 (v.toNat / 10 % 10), BitVec.ofNat 8 (v.toNat % 10)]

/-- LD B,Vx (R133): `I` is not changed. -/
def execLdB (x : Reg) (s : State) : Host.Outcome State Fault Refusal :=
  .next (if inMemory s.i 3 then s.storeAtI (decimalDigits (s.getV x)) else s.raiseRange)

/-- LD [I],Vx (R134): all 16 registers, whatever the field says. -/
def execStoreRegs (_x : Reg) (s : State) : Host.Outcome State Fault Refusal :=
  .next (if inMemory s.i 16 then (s.storeAtI s.v.toList).blockAdvance else s.raiseRange)

/-- LD Vx,[I] (R135): all 16 registers, whatever the field says. -/
def execLoadRegs (_x : Reg) (s : State) : Host.Outcome State Fault Refusal :=
  .next (if inMemory s.i 16
    then (s.setAllV (Vector.ofFn fun k : Fin 16 => s.readAtI k.val)).blockAdvance
    else s.raiseRange)

end Sys2Proof.Machine
end

