-- ==== Sys2Proof/Machine/JumpRandom.lean ====
section
/-! DEFINITION. Jump with register offset and the random byte (spec/43_jump_offset_random.md R125, R126). -/

namespace Sys2Proof.Machine

/-- JP V0,nnn (R125): the whole `nnn` is the base in both profiles and the sum is not masked. -/
def execJpV0 (nnn : Addr) (x : Reg) (s : State) : Host.Outcome State Fault Refusal :=
  .next (s.setPc (addrWord nnn + byteWord (s.jumpOffset x)))

/-- RND Vx,kk (R126): one byte drawn, ANDed with the mask. -/
def execRnd (x : Reg) (kk : Byte) (s : State) : Host.Outcome State Fault Refusal :=
  .next (s.afterDraw.setV x (s.rndByte &&& kk))

end Sys2Proof.Machine
end

