-- ==== Sys2Proof/Machine/Keypad.lean ====
section
/-! DEFINITION. The keypad instructions (spec/45_keypad.md R140 to R142). -/

namespace Sys2Proof.Machine

/-- SKP Vx (R140). -/
def execSkp (x : Reg) (s : State) : Host.Outcome State Fault Refusal :=
  .next (s.skipIf (s.keyPressed (s.getV x)))

/-- SKNP Vx (R141): the complement of SKP. -/
def execSknp (x : Reg) (s : State) : Host.Outcome State Fault Refusal :=
  .next (s.skipIf (!s.keyPressed (s.getV x)))

/-- LD Vx,K (R142): no step exists until the host supplies a symbol (R45); the symbol is consumed, and one
outside `KEYMAP` faults. Neither reads nor changes `KEY`. -/
def execLdVxK (x : Reg) (s : State) : Host.Outcome State Fault Refusal :=
  match s.host.syms with
  | [] => .fault .awaitingSymbol
  | sym :: _ =>
    .next (match keyOf s.keymap sym with
      | some k => s.afterSym.setV x (k.setWidth 8)
      | none => s.afterSym.raise .unmappedKey (byteWord sym))

end Sys2Proof.Machine
end

