-- ==== Sys2Proof/Machine/System.lean ====
section
/-! DEFINITION. The one system instruction (spec/47_display_system.md R156, R158). -/

namespace Sys2Proof.Machine

/-- HALT (R156): the graceful end; the fault record is not written. -/
def execHalt (s : State) : Host.Outcome State Fault Refusal := .next s.halt

end Sys2Proof.Machine
end

