-- ==== Sys2Proof/Machine/Timers.lean ====
section
/-! DEFINITION. The timer instructions (spec/46_timers.md R145 to R147). The timer step of the same cycle
follows the execute phase (spec/40_cycle_driver.md R94) and is no part of these meanings. -/

namespace Sys2Proof.Machine

/-- LD Vx,DT (R145). -/
def execLdVxDt (x : Reg) (s : State) : Host.Outcome State Fault Refusal := .next (s.setV x s.dt)

/-- LD DT,Vx (R146). -/
def execLdDtVx (x : Reg) (s : State) : Host.Outcome State Fault Refusal := .next (s.setDt (s.getV x))

/-- LD ST,Vx (R147). -/
def execLdStVx (x : Reg) (s : State) : Host.Outcome State Fault Refusal := .next (s.setSt (s.getV x))

end Sys2Proof.Machine
end

