-- ==== Sys2Proof/Machine/Step.lean ====
section
/-! DEFINITION. One cycle: fetch, decode, execute, timer step (spec/40_cycle_driver.md R90 to R99), over
the operations of Ops.lean. -/

namespace Sys2Proof.Machine

/-- The execute phase and the end of the cycle for a decoded word `w`, at a state already advanced. -/
def executeWord (w : Word) (s : State) : Host.Outcome State Fault Refusal :=
  match decodeWord w with
  | .error _ => .next (s.raiseUnknown w)
  | .ok i =>
    match exec i s with
    | .next t => .next (endCycle t)
    | .fault r => .fault r
    | .refused r => .refused r

/-- One step: a cycle when `STATUS = RUNNING` (R90), none when the core has stopped (R42). -/
def step (s : State) : Host.Outcome State Fault Refusal :=
  match s.status with
  | .halted => .fault .coreHalted
  | .faulted => .fault .coreFaulted
  | .running =>
    if s.canFetch then executeWord s.fetchWord s.advance else .next s.raiseFetch

/-- `s` with the instruction word `w` (bits above `nbits` zero) in memory at `PC`, high byte first, where
the next fetch reads it. -/
def State.withFetchWord (s : State) (nbits w : Nat) : State :=
  let word : Word := BitVec.ofNat 16 (w % 2 ^ nbits)
  s.setMem ((s.mem.write s.pc.toNat (highByte word)).write (s.pc.toNat + 1) (lowByte word))

end Sys2Proof.Machine
end

