-- ==== Sys2Proof/Machine/HostPort.lean ====
section
/-! DEFINITION. The host's side of the block: reset with its arguments (spec/70_reset_and_hazards.md R190
to R197), what the host may do between two cycles (spec/10_state.md R47), the snapshot of the display
(spec/47_display_system.md R154) and the exit code (spec/40_cycle_driver.md R99). -/

namespace Sys2Proof.Machine

/-- The arguments of a reset (R190): profile, font and ROM, with the host's key table and inputs. The
contents of the call stack are unspecified at reset (R29, R191), so a launch takes them too. -/
structure LaunchArgs where
  q : Quirks
  font : Vector Byte 80
  rom : List Byte
  keymap : KeyMap
  host : HostInputs
  stack : Vector Word 16
deriving DecidableEq, Repr

/-- The launch that State.reset stands for: the default font and the empty ROM, with the values that
assumptions 2, 3, 4 and 6 name for what only the host knows. -/
def defaultArgs : LaunchArgs where
  q := resetProfile
  font := Vector.ofFn fun k : Fin 80 => defaultFont.getD k.val 0
  rom := []
  keymap := resetKeyMap
  host := .idle
  stack := Vector.replicate 16 0

/-- Memory after reset (R40, R191): the font at 0, the ROM at 0x200, 0 elsewhere. -/
def bootMemory (font rom : List Byte) : Memory :=
  (Memory.writeBytes [] 0 font).writeBytes Config.loadAddr rom

/-- Reset with its arguments (R190, R191). A ROM of more than 3584 bytes is rejected before any byte is
copied (R193): no state exists for such a launch. -/
def launch (a : LaunchArgs) : Option State :=
  if a.rom.length ≤ Config.maxRom then
    some { State.reset with
      mem := bootMemory a.font.toList a.rom
      q := a.q
      keymap := a.keymap
      host := a.host
      stack := a.stack }
  else none

/-- What the host can do between two cycles (R47, R176): drive the keypad, supply a symbol or a random
byte, reset. It writes nothing else. -/
inductive HostAction where
  | driveKeys (keys : BitVec 16)
  | supplySym (sym : Byte)
  | supplyRnd (b : Byte)
  | reset (a : LaunchArgs)
deriving DecidableEq, Repr

/-- The state after a host action; none when a reset is refused for its ROM (R193). -/
def State.hostAct (s : State) : HostAction → Option State
  | .driveKeys k => some (s.setHost { s.host with keys := k })
  | .supplySym b => some (s.setHost { s.host with syms := s.host.syms ++ [b] })
  | .supplyRnd b => some (s.setHost { s.host with rndFeed := s.host.rndFeed ++ [b] })
  | .reset a => launch a

/-- The full-grid snapshot, row-major: pixel `(x, y)` at index `64 * y + x` (R35, R154). -/
def State.snapshot (s : State) : List Bool :=
  (List.range 2048).map fun k => pixelAt s.fb (k % 64) (k / 64)

/-- The exit code the host reports: 0 on a graceful halt, 1 on a fatal condition (R99, R173). -/
def State.exitCode (s : State) : Option Nat :=
  match s.status with
  | .running => none
  | .halted => some 0
  | .faulted => some 1

end Sys2Proof.Machine
end

