-- ==== Sys2Proof/Safety.lean ====
section
/-! DEFINITION. The terms in which claims are stated: the parts of the state and frames over them, what
counts as a safe state (spec/60_exceptions.md R173), the invariant of the machine, and the classes of
instructions the whole-machine rules speak of. -/

namespace Sys2Proof.Machine

/-! ## Frames -/

/-- The parts of the state, one per element of spec/10_state.md's summary table and per host input. -/
inductive Part where
  | v | i | pc | stack | sp | dt | st | fb | mem | q | keymap | status | record
  | keys | keyFeed | syms | rndFeed | draws
deriving DecidableEq, Repr

/-- Two states agree on a part. Memory is compared through the model's read of one byte. -/
def Part.Same : Part → State → State → Prop
  | .v, s, t => t.v = s.v
  | .i, s, t => t.i = s.i
  | .pc, s, t => t.pc = s.pc
  | .stack, s, t => t.stack = s.stack
  | .sp, s, t => t.sp = s.sp
  | .dt, s, t => t.dt = s.dt
  | .st, s, t => t.st = s.st
  | .fb, s, t => t.fb = s.fb
  | .mem, s, t => ∀ a, t.mem.read a = s.mem.read a
  | .q, s, t => t.q = s.q
  | .keymap, s, t => t.keymap = s.keymap
  | .status, s, t => t.status = s.status
  | .record, s, t => t.record = s.record
  | .keys, s, t => t.host.keys = s.host.keys
  | .keyFeed, s, t => t.host.keyFeed = s.host.keyFeed
  | .syms, s, t => t.host.syms = s.host.syms
  | .rndFeed, s, t => t.host.rndFeed = s.host.rndFeed
  | .draws, s, t => t.host.draws = s.host.draws

/-- Every part but those listed is as it was. -/
def Frame (touched : List Part) (s t : State) : Prop := ∀ p, p ∉ touched → p.Same s t

/-- Every register but those listed is as it was. -/
def RegsExcept (written : List Reg) (s t : State) : Prop := ∀ r, r ∉ written → t.getV r = s.getV r

/-! ## Safety -/

/-- A state is safe when it has not gone wrong: `FAULTED` is the only unsafe status (R173). -/
def State.Safe (s : State) : Prop := s.status ≠ .faulted

/-- The normal end of a run (R173). -/
def State.GracefulEnd (s : State) : Prop := s.status = .halted

/-- Execution of the named fault: status, record, nothing else (R166, R170). -/
def FaultedWith (cause : FaultCause) (info pc0 : Word) (s t : State) : Prop :=
  t.status = .faulted ∧ t.record = { cause := cause, info := info, pc := pc0 } ∧ Frame [.status, .record] s t

/-! ## The invariant -/

/-- What holds of every state a run reaches: memory in its canonical form; `PC` and every held return
address in the ranges of R25 and R31; a fault recorded exactly in `FAULTED` (R43); `KEYMAP` defined on
16 symbols (R8). -/
structure State.Inv (s : State) : Prop where
  memory : s.mem.wf
  pcBound : s.pc.toNat ≤ 0x10FE
  stackBound : ∀ k : Fin 16, k.val < s.sp.val → s.stack[k].toNat ≤ 4096
  recordClear : s.status ≠ .faulted → s.record = .clear
  recordSet : s.status = .faulted → s.record.cause ≠ .none
  keymapTotal : s.keymap.wf

/-! ## Classes of instructions -/

/-- The skips (R96). -/
def isSkip : Instr → Bool
  | .seImm _ _ | .seReg _ _ | .sneImm _ _ | .sneReg _ _ | .skp _ | .sknp _ => true
  | .halt | .cls | .ret | .jp _ | .call _ | .ldImm _ _ | .addImm _ _ | .ldReg _ _
  | .orReg _ _ | .andReg _ _ | .xorReg _ _ | .addReg _ _ | .sub _ _ | .shr _ _ | .subn _ _
  | .shl _ _ | .ldI _ | .jpV0 _ _ | .rnd _ _ | .drw _ _ _ | .ldVxDt _ | .ldVxK _
  | .ldDtVx _ | .ldStVx _ | .addI _ | .ldF _ | .ldB _ | .storeRegs _ | .loadRegs _ => false

/-- The instructions that load `PC` with a target (R96). -/
def isTransfer : Instr → Bool
  | .jp _ | .call _ | .ret | .jpV0 _ _ => true
  | .halt | .cls | .seImm _ _ | .sneImm _ _ | .seReg _ _ | .ldImm _ _ | .addImm _ _
  | .ldReg _ _ | .orReg _ _ | .andReg _ _ | .xorReg _ _ | .addReg _ _ | .sub _ _
  | .shr _ _ | .subn _ _ | .shl _ _ | .sneReg _ _ | .ldI _ | .rnd _ _ | .drw _ _ _
  | .skp _ | .sknp _ | .ldVxDt _ | .ldVxK _ | .ldDtVx _ | .ldStVx _ | .addI _ | .ldF _
  | .ldB _ | .storeRegs _ | .loadRegs _ => false

/-- When a skip's condition holds, from the state before the cycle (R103 to R106, R140, R141). -/
def skipCondition (s : State) : Instr → Bool
  | .seImm x kk => s.getV x == kk
  | .seReg x y => s.getV x == s.getV y
  | .sneImm x kk => s.getV x != kk
  | .sneReg x y => s.getV x != s.getV y
  | .skp x => s.keyPressed (s.getV x)
  | .sknp x => !s.keyPressed (s.getV x)
  | .halt | .cls | .ret | .jp _ | .call _ | .ldImm _ _ | .addImm _ _ | .ldReg _ _
  | .orReg _ _ | .andReg _ _ | .xorReg _ _ | .addReg _ _ | .sub _ _ | .shr _ _ | .subn _ _
  | .shl _ _ | .ldI _ | .jpV0 _ _ | .rnd _ _ | .drw _ _ _ | .ldVxDt _ | .ldVxK _
  | .ldDtVx _ | .ldStVx _ | .addI _ | .ldF _ | .ldB _ | .storeRegs _ | .loadRegs _ => false

/-- The target a transfer loads, from the state before the cycle (R100, R101, R102, R125). -/
def loadedTarget (s : State) : Instr → Word
  | .jp nnn => nnn.setWidth 16
  | .call nnn => nnn.setWidth 16
  | .jpV0 nnn x => nnn.setWidth 16 + (if s.q.jumpVx then s.getV x else s.getV 0#4).setWidth 16
  | .ret => s.stack.toList.getD (s.sp.val - 1) 0
  | .halt | .cls | .seImm _ _ | .sneImm _ _ | .seReg _ _ | .ldImm _ _ | .addImm _ _
  | .ldReg _ _ | .orReg _ _ | .andReg _ _ | .xorReg _ _ | .addReg _ _ | .sub _ _
  | .shr _ _ | .subn _ _ | .shl _ _ | .sneReg _ _ | .ldI _ | .rnd _ _ | .drw _ _ _
  | .skp _ | .sknp _ | .ldVxDt _ | .ldVxK _ | .ldDtVx _ | .ldStVx _ | .addI _ | .ldF _
  | .ldB _ | .storeRegs _ | .loadRegs _ => 0

/-- The instructions whose effect depends on the profile (R38, R82). -/
def readsProfile : Instr → Bool
  | .shr _ _ | .shl _ _ | .jpV0 _ _ | .addI _ | .storeRegs _ | .loadRegs _ => true
  | .halt | .cls | .ret | .jp _ | .call _ | .seImm _ _ | .sneImm _ _ | .seReg _ _
  | .ldImm _ _ | .addImm _ _ | .ldReg _ _ | .orReg _ _ | .andReg _ _ | .xorReg _ _
  | .addReg _ _ | .sub _ _ | .subn _ _ | .sneReg _ _ | .ldI _ | .rnd _ _ | .drw _ _ _
  | .skp _ | .sknp _ | .ldVxDt _ | .ldVxK _ | .ldDtVx _ | .ldStVx _ | .ldF _ | .ldB _ => false

/-- The parts each instruction's execute phase may write, its fault included (R24, R26, R27, R29, R32,
R34, R36, R41). -/
def writtenParts : Instr → List Part
  | .halt => [.status]
  | .cls => [.fb]
  | .ret => [.pc, .sp, .status, .record]
  | .jp _ => [.pc]
  | .call _ => [.pc, .stack, .sp, .status, .record]
  | .seImm _ _ | .sneImm _ _ | .seReg _ _ | .sneReg _ _ => [.pc]
  | .skp _ | .sknp _ => [.pc]
  | .ldImm _ _ | .addImm _ _ | .ldReg _ _ | .orReg _ _ | .andReg _ _ | .xorReg _ _ => [.v]
  | .addReg _ _ | .sub _ _ | .shr _ _ | .subn _ _ | .shl _ _ => [.v]
  | .jpV0 _ _ => [.pc]
  | .rnd _ _ => [.v, .rndFeed, .draws]
  | .drw _ _ _ => [.v, .fb, .status, .record]
  | .ldVxDt _ => [.v]
  | .ldVxK _ => [.v, .syms, .status, .record]
  | .ldDtVx _ => [.dt]
  | .ldStVx _ => [.st]
  | .ldI _ => [.i]
  | .addI _ => [.i, .v]
  | .ldF _ => [.i]
  | .ldB _ => [.mem, .status, .record]
  | .storeRegs _ => [.mem, .i, .status, .record]
  | .loadRegs _ => [.v, .i, .status, .record]

/-! ## The key-wait -/

/-- A key-wait for which the host has supplied no symbol: its cycle does not exist yet (R45, R98, R142). -/
def waitsForSymbol (i : Instr) (s : State) : Bool :=
  match i with
  | .ldVxK _ => s.host.syms.isEmpty
  | .halt | .cls | .ret | .jp _ | .call _ | .seImm _ _ | .sneImm _ _ | .seReg _ _
  | .ldImm _ _ | .addImm _ _ | .ldReg _ _ | .orReg _ _ | .andReg _ _ | .xorReg _ _
  | .addReg _ _ | .sub _ _ | .shr _ _ | .subn _ _ | .shl _ _ | .sneReg _ _ | .ldI _
  | .jpV0 _ _ | .rnd _ _ | .drw _ _ _ | .skp _ | .sknp _ | .ldVxDt _ | .ldDtVx _
  | .ldStVx _ | .addI _ | .ldF _ | .ldB _ | .storeRegs _ | .loadRegs _ => false

/-- The core stands in a key-wait that has no symbol (R45): the word at `PC` is LD Vx,K. -/
def State.HeldInKeyWait (s : State) (x : Reg) : Prop :=
  s.status = .running ∧ s.pc.toNat ≤ 4094 ∧ decodeWord s.fetchWord = .ok (.ldVxK x) ∧ s.host.syms = []

/-! ## Accesses at `I` -/

/-- How many bytes an instruction touches at `I` (R41, R56): the scanned rows of DRW, 3 for LD B, 16 for a
block transfer. -/
def touchedBytes (s : State) : Instr → Nat
  | .drw _ y n => min n.toNat (32 - (s.getV y).toNat % 32)
  | .ldB _ => 3
  | .storeRegs _ | .loadRegs _ => 16
  | .halt | .cls | .ret | .jp _ | .call _ | .seImm _ _ | .sneImm _ _ | .seReg _ _
  | .ldImm _ _ | .addImm _ _ | .ldReg _ _ | .orReg _ _ | .andReg _ _ | .xorReg _ _
  | .addReg _ _ | .sub _ _ | .shr _ _ | .subn _ _ | .shl _ _ | .sneReg _ _ | .ldI _
  | .jpV0 _ _ | .rnd _ _ | .skp _ | .sknp _ | .ldVxDt _ | .ldVxK _ | .ldDtVx _
  | .ldStVx _ | .addI _ | .ldF _ => 0

/-! ## The sprite -/

/-- The sprite's pixel over column `px` and row `py` of the grid is 1, for a sprite at `I` whose origin is
`(ox, oy)` and of which `rows` rows are scanned (R151). -/
def spriteBit (s : State) (ox oy rows px py : Nat) : Prop :=
  ox ≤ px ∧ px ≤ ox + 7 ∧ oy ≤ py ∧ py < oy + rows ∧
    (s.mem.read (s.i.toNat + (py - oy))).getLsbD (7 - (px - ox)) = true

/-- The causes an instruction may raise in its execute phase (R161, R169). -/
def raisable : Instr → List FaultCause
  | .call _ => [.stackOverflow]
  | .ret => [.stackUnderflow]
  | .ldVxK _ => [.unmappedKey]
  | .drw _ _ _ => [.memoryOutOfRange]
  | .ldB _ => [.memoryOutOfRange]
  | .storeRegs _ => [.memoryOutOfRange]
  | .loadRegs _ => [.memoryOutOfRange]
  | .halt | .cls | .jp _ | .seImm _ _ | .sneImm _ _ | .seReg _ _ | .ldImm _ _
  | .addImm _ _ | .ldReg _ _ | .orReg _ _ | .andReg _ _ | .xorReg _ _ | .addReg _ _
  | .sub _ _ | .shr _ _ | .subn _ _ | .shl _ _ | .sneReg _ _ | .ldI _ | .jpV0 _ _
  | .rnd _ _ | .skp _ | .sknp _ | .ldVxDt _ | .ldDtVx _ | .ldStVx _ | .addI _ | .ldF _ => []

end Sys2Proof.Machine
end

