-- ==== Sys2Proof/Certificates/Slice0/Obligations.lean ====
section
/-! DEFINITION. The statements for the provers. Each docstring names the rules of spec/ it formalises;
where a statement rests on a decision the spec or the model marks as its own, it says so. -/

open Sys2Proof Sys2Proof.Machine

/-! ## Encoding -/

/-- The six instruction words the source shows decode to the instruction of their row, and so does at least
one word of every opcode class 0 to F (spec/30_encoding.md R71, R75 to R79); the word 0x8128 is an unknown
opcode. The patterns outside the six are the spec's decision D4 (assumption 12); that 0x8128 is unknown is
its decision D5 (assumption 13). -/
def Obligations.DecodesWordsOfTheSpec : Prop :=
  decodeWord 0x0000#16 = .ok .halt ∧ decodeWord 0x00EE#16 = .ok .ret ∧
  decodeWord 0x2206#16 = .ok (.call 0x206#12) ∧ decodeWord 0x6005#16 = .ok (.ldImm 0x0#4 0x05#8) ∧
  decodeWord 0x6103#16 = .ok (.ldImm 0x1#4 0x03#8) ∧ decodeWord 0x8014#16 = .ok (.addReg 0x0#4 0x1#4) ∧
  decodeWord 0x1234#16 = .ok (.jp 0x234#12) ∧ decodeWord 0x3A05#16 = .ok (.seImm 0xA#4 0x05#8) ∧
  decodeWord 0x4A05#16 = .ok (.sneImm 0xA#4 0x05#8) ∧ decodeWord 0x5120#16 = .ok (.seReg 0x1#4 0x2#4) ∧
  decodeWord 0x7A02#16 = .ok (.addImm 0xA#4 0x02#8) ∧ decodeWord 0x9120#16 = .ok (.sneReg 0x1#4 0x2#4) ∧
  decodeWord 0xC10F#16 = .ok (.rnd 0x1#4 0x0F#8) ∧
  decodeWord 0xB300#16 = .ok (.jpV0 0x300#12 0x3#4) ∧ decodeWord 0xA2F0#16 = .ok (.ldI 0x2F0#12) ∧
  decodeWord 0xE1A1#16 = .ok (.sknp 0x1#4) ∧ decodeWord 0xF315#16 = .ok (.ldDtVx 0x3#4) ∧
  decodeWord 0xD015#16 = .ok (.drw 0x0#4 0x1#4 0x5#4) ∧ decodeWord 0xF055#16 = .ok (.storeRegs 0x0#4) ∧
  decodeWord 0x8128#16 = .error (.unknownOpcode 0x8128#16)

/-- Decoding the word of a well-formed instruction gives it back, every operand at every value
(R71 to R79). -/
def Obligations.DecodeInvertsEncode : Prop :=
  ∀ i : Instr, i.wellFormed = true → decodeWord (encode i) = .ok i

/-- A word that decodes is the word of the instruction it decodes to, and that instruction is
well-formed: no legal word has a second meaning or a lost bit (R71, R74). -/
def Obligations.EncodeInvertsDecode : Prop :=
  ∀ (w : Word) (i : Instr), decodeWord w = .ok i → encode i = w ∧ i.wellFormed = true

/-- The table of 35 rows decides decoding: a word matches at most one row, a word that decodes matches the
row of its instruction, and the words that match no row are the unknown opcodes (R74, R80, R85). -/
def Obligations.DecodeFollowsOpcodeTable : Prop :=
  opcodeRows.length = 35 ∧
  ∀ w : Word,
    (opcodeRows.filter (matchesRow w)).length ≤ 1 ∧
    (∀ i, decodeWord w = .ok i → matchesRow w (rowOf i) = true ∧ rowOf i ∈ opcodeRows) ∧
    ((∀ row ∈ opcodeRows, matchesRow w row = false) ↔ decodeWord w = .error (.unknownOpcode w))

/-! ## The cycle -/

/-- Fetch is big-endian: the byte at the lower address is the high byte of the word (R50, R91; the spec derives the
order from the source's two scenarios). -/
def Obligations.FetchIsBigEndian : Prop :=
  ∀ s : State, s.fetchWord.toNat =
    (s.mem.read s.pc.toNat).toNat * 256 + (s.mem.read (s.pc.toNat + 1)).toNat

/-- A step runs the decoded instruction: when the two bytes at `PC` decode to `i`, the step is `exec i` at
the state whose `PC` is `pc0 + 2`, followed, if that ended done, by the timer step and the host's next
key states (R90 to R94). A key-wait without a symbol has neither (R45, the spec's decision D16; how the model says
so is assumption 8). That a halt or a fault ends there, without a timer step, is the spec's decision D8 (assumption
15); that the coming key states are a list, one for each completed cycle, is the model's choice (assumption 7). -/
def Obligations.StepRunsDecodedInstruction : Prop :=
  ∀ (s : State) (i : Instr), s.status = .running → s.pc.toNat ≤ 4094 →
    decodeBytes [s.mem.read s.pc.toNat, s.mem.read (s.pc.toNat + 1)] = .ok (i, []) →
    (waitsForSymbol i s = true →
      exec i { s with pc := s.pc + 2#16 } = .fault .awaitingSymbol ∧ step s = .fault .awaitingSymbol) ∧
    (waitsForSymbol i s = false →
      ∃ t u, exec i { s with pc := s.pc + 2#16 } = .next t ∧ step s = .next u ∧
        (t.status = .running →
          u = { t with dt := timerDown t.dt, st := timerDown t.st, host := t.host.nextKeys }) ∧
        (t.status ≠ .running → u = t))

/-- A fetch above 4094 faults: `PC` is not advanced and is both `FAULT_PC` and `FAULT_INFO`; nothing else
changes (R57, R168; the spec's decision D10). -/
def Obligations.FetchBeyondMemoryFaults : Prop :=
  ∀ s : State, s.status = .running → 4094 < s.pc.toNat →
    ∃ t, step s = .next t ∧ FaultedWith .fetchOutOfRange s.pc s.pc s t

/-- A word that matches no row faults with the literal word; `FAULT_PC = pc0`, `PC = pc0 + 2`, nothing else
changes, and the host sees exit code 1 (R157; which words these are is the spec's decision D5, the record its
decision D7, the `PC` left its decision D6). -/
def Obligations.UnknownWordFaults : Prop :=
  (∀ s : State, s.status = .running → s.pc.toNat ≤ 4094 →
    (∀ row ∈ opcodeRows, matchesRow s.fetchWord row = false) →
    ∃ t, step s = .next t ∧ t.status = .faulted ∧
      t.record = { cause := .unknownOpcode, info := s.fetchWord, pc := s.pc } ∧
      t.pc = s.pc + 2#16 ∧ Frame [.pc, .status, .record] s t ∧ t.exitCode = some 1) ∧
  (∀ w ∈ [0x8128#16, 0x5121#16, 0xE100#16, 0xF1FF#16, 0x0123#16, 0x00E1#16],
    ∀ row ∈ opcodeRows, matchesRow w row = false)

/-- No return from a fault: in `FAULTED` the core has no step, however often it is asked, and no action of
the host but a reset changes the status; a reset does (R171). -/
def Obligations.NothingLeavesFaultedButReset : Prop :=
  ∀ s : State, s.status = .faulted →
    step s = .fault .coreFaulted ∧ (∀ k, core.run (k + 1) s = .fault .coreFaulted) ∧
    (∀ a t, s.hostAct a = some t → t.status = .faulted ∨ ∃ l, a = .reset l ∧ launch l = some t) ∧
    (∀ l : LaunchArgs, l.rom.length ≤ 3584 → ∃ t, s.hostAct (.reset l) = some t ∧ t.status = .running)

/-- The core has a step exactly when `STATUS = RUNNING` (R90, R42) and it does not stand in a key-wait without a
symbol (R45, R142); a step that does not exist says which of the three it is; no step is refused. Of the execute
phases, only that of a key-wait without a symbol answers no next state. That a fatal condition is a next state is
the spec's decision D7 (assumption 16); that a key-wait needs a symbol supplied is its decision D16 (assumption
8). -/
def Obligations.StepExistsUnlessStoppedOrWaiting : Prop :=
  ∀ s : State,
    ((∃ t, step s = .next t) ↔ s.status = .running ∧ ∀ x, ¬ s.HeldInKeyWait x) ∧
    (step s = .fault .coreHalted ↔ s.status = .halted) ∧
    (step s = .fault .coreFaulted ↔ s.status = .faulted) ∧
    (step s = .fault .awaitingSymbol ↔ ∃ x, s.HeldInKeyWait x) ∧
    (∀ r, step s ≠ .refused r) ∧
    (∀ i, (∃ t, exec i s = .next t) ↔ waitsForSymbol i s = false)

/-- The timer step of a completed cycle: both timers go down by one, saturating at 0, after the execute
phase (R94; that this rate is kept is the spec's decision D24). -/
def Obligations.CompletedCycleStepsTimers : Prop :=
  ∀ (s t : State) (i : Instr), s.status = .running → s.pc.toNat ≤ 4094 →
    decodeWord s.fetchWord = .ok i → exec i { s with pc := s.pc + 2#16 } = .next t →
    t.status = .running →
    ∃ u, step s = .next u ∧ u.dt.toNat = t.dt.toNat - 1 ∧ u.st.toNat = t.st.toNat - 1 ∧
      Frame [.dt, .st, .keys, .keyFeed] t u

/-- A cycle that ends in a halt or a fault has no timer step (R95; the spec's decision D8). -/
def Obligations.HaltAndFaultKeepTimers : Prop :=
  ∀ s t : State, step s = .next t → t.status ≠ .running → t.dt = s.dt ∧ t.st = s.st

/-- The `PC` law of a completed cycle: `pc0 + 4` for a skip whose condition held, the loaded target for a
transfer, `pc0 + 2` in every other case (R96; that the target of JP V0 is not masked is the spec's decision
D14, the place of the popped entry its decision D20, and that SKNP skips and SKP does not when `V[x]` is 16 or
more its decision D15, assumption 20). -/
def Obligations.CompletedCycleMovesPc : Prop :=
  ∀ (s t : State) (i : Instr), s.status = .running → s.pc.toNat ≤ 4094 →
    decodeWord s.fetchWord = .ok i → step s = .next t → t.status = .running →
    t.pc = if isSkip i && skipCondition s i then s.pc + 4#16
      else if isTransfer i then loadedTarget s i else s.pc + 2#16

/-- The blocking cycle: while a key-wait has no symbol no step exists, however often one is asked for, so nothing
changes, and keys the host drives do not help; with the symbol the host supplies it completes in one step. That
step consumes the symbol, and one of `KEYMAP` gives `V[x]` its key and one timer step, one outside it the fault of
UnmappedKey and none (R45, R98, R142, R165; the channel is the spec's decision D16, the timers of a faulting cycle
its decision D8; how the model says that no step exists is assumption 8). -/
def Obligations.KeyWaitHoldsUntilSymbol : Prop :=
  ∀ (s : State) (x : Reg), s.HeldInKeyWait x →
    step s = .fault .awaitingSymbol ∧ (∀ n, core.run (n + 1) s = .fault .awaitingSymbol) ∧
    (∀ keys, ∃ t, s.hostAct (.driveKeys keys) = some t ∧ t.HeldInKeyWait x ∧ Frame [.keys] s t) ∧
    (∀ sym, ∃ t u, s.hostAct (.supplySym sym) = some t ∧ Frame [.syms] s t ∧
      step t = .next u ∧ u.pc = s.pc + 2#16 ∧ u.host.syms = [] ∧
      (∀ k, s.keymap.wf → (sym, k) ∈ s.keymap →
        u.status = .running ∧ (u.getV x).toNat = k.toNat ∧
        u.dt.toNat = s.dt.toNat - 1 ∧ u.st.toNat = s.st.toNat - 1 ∧
        RegsExcept [x] s u ∧ Frame [.v, .pc, .dt, .st, .keys, .keyFeed] s u) ∧
      ((∀ k, (sym, k) ∉ s.keymap) →
        u.status = .faulted ∧ u.record = { cause := .unmappedKey, info := sym.setWidth 16, pc := s.pc } ∧
        Frame [.pc, .status, .record] s u))

/-- HALT: the word 0x0000 sets `STATUS` to `HALTED`, leaves `PC` at `pc0 + 2`, has no timer step, changes
nothing else, leaves the fault record, gives exit code 0, and no cycle follows (R156; the `PC` left and the
absence of a timer step are the spec's decisions D6 and D8). -/
def Obligations.HaltStopsGracefully : Prop :=
  encode .halt = 0x0000#16 ∧
  (∀ s : State, ∃ t, exec .halt s = .next t ∧ t.status = .halted ∧ Frame [.status] s t) ∧
  (∀ s : State, s.status = .running → s.pc.toNat ≤ 4094 → s.fetchWord = 0x0000#16 →
    ∃ t, step s = .next t ∧ t.status = .halted ∧ t.pc = s.pc + 2#16 ∧ Frame [.pc, .status] s t ∧
      t.exitCode = some 0 ∧ step t = .fault .coreHalted)

/-- Halt is not a fault: `HALTED` is reached only by the word 0x0000, which writes no fault record, and maps
to exit code 0; `FAULTED` maps to exit code 1 and is the one unsafe status (R173). -/
def Obligations.OnlyWordZeroHalts : Prop :=
  (∀ s t : State, step s = .next t → t.status = .halted →
    s.fetchWord = 0x0000#16 ∧ t.record = s.record ∧ t.exitCode = some 0 ∧ t.GracefulEnd ∧ t.Safe) ∧
  (∀ s : State, s.status = .faulted → s.exitCode = some 1 ∧ ¬ s.Safe)

/-! ## Faults -/

/-- Faults are precise: an instruction that faults has changed `STATUS` and the record and nothing else,
but for the symbol a key-wait has consumed; the record names the instruction's own address (R166, R170,
R165; the spec's decisions D7 and D8). -/
def Obligations.FaultsArePrecise : Prop :=
  ∀ (i : Instr) (s t : State), s.status = .running → exec i s = .next t → t.status = .faulted →
    Frame [.status, .record, .syms] s t ∧ t.record.pc = s.pc - 2#16 ∧
    ((∀ x, i ≠ .ldVxK x) → t.host.syms = s.host.syms)

/-- Which instruction may raise which cause, what held when it did, and with what information: 16 entries held
for StackOverflow, none for StackUnderflow, bytes touched at `I` beyond address 4095 for MemoryOutOfRange, a
symbol outside `KEYMAP` for UnmappedKey. No other fatal condition exists in the execute phase (R161, R169;
the codes and the record are the spec's decision D7, the memory range its decision D9, the rows DRW counts
its decision D21). -/
def Obligations.FaultCausesAreThoseOfTheTable : Prop :=
  ∀ (i : Instr) (s t : State), s.status = .running → exec i s = .next t → t.status = .faulted →
    t.record.cause ∈ raisable i ∧
    (t.record.cause = .stackOverflow → t.record.info = encode i ∧ s.sp.val = 16) ∧
    (t.record.cause = .stackUnderflow → t.record.info = encode i ∧ s.sp.val = 0) ∧
    (t.record.cause = .memoryOutOfRange → t.record.info.toNat = max s.i.toNat 4096 ∧
      0 < touchedBytes s i ∧ 4095 < s.i.toNat + touchedBytes s i - 1) ∧
    (t.record.cause = .unmappedKey → ∃ sym rest, s.host.syms = sym :: rest ∧
      t.record.info.toNat = sym.toNat ∧ ∀ k, (sym, k) ∉ s.keymap)

/-- StackOverflow is raised by CALL when 16 entries are held; the stack and `SP` are unchanged (R163; the
record and the precision of faults are the spec's decisions D7 and D8). -/
def Obligations.CallOnFullStackFaults : Prop :=
  ∀ (nnn : Addr) (s : State), s.sp.val = 16 →
    ∃ t, exec (.call nnn) s = .next t ∧
      FaultedWith .stackOverflow (encode (.call nnn)) (s.pc - 2#16) s t ∧
      t.stack = s.stack ∧ t.sp = s.sp

/-- UnmappedKey: a key-wait given a symbol outside `KEYMAP` faults with the literal symbol; `V[x]` is
unchanged and the symbol is consumed (R165; the channel is the spec's decision D16, the record its decision
D7). -/
def Obligations.UnmappedSymbolFaults : Prop :=
  ∀ (x : Reg) (s : State) (sym : Byte) (rest : List Byte), s.host.syms = sym :: rest →
    (∀ k, (sym, k) ∉ s.keymap) →
    ∃ t, exec (.ldVxK x) s = .next t ∧ t.status = .faulted ∧
      t.record = { cause := .unmappedKey, info := sym.setWidth 16, pc := s.pc - 2#16 } ∧
      t.getV x = s.getV x ∧ t.host.syms = rest ∧ Frame [.status, .record, .syms] s t

/-- An access at `I` that leaves memory faults before any effect, with the first address above 4095 it
would touch (R56, R167; the spec's decision D9). DRW counts the rows it would scan (R152). -/
def Obligations.AccessBeyondMemoryFaults : Prop :=
  ∀ (i : Instr) (s : State) (m : Nat),
    (∃ x, i = .ldB x ∧ m = 3) ∨ (∃ x, i = .storeRegs x ∧ m = 16) ∨
      (∃ x, i = .loadRegs x ∧ m = 16) ∨
      (∃ x y n, i = .drw x y n ∧ m = min n.toNat (32 - (s.getV y).toNat % 32)) →
    0 < m → 4095 < s.i.toNat + m - 1 →
    ∃ t, exec i s = .next t ∧
      FaultedWith .memoryOutOfRange (BitVec.ofNat 16 (max s.i.toNat 4096)) (s.pc - 2#16) s t

/-! ## Whole-machine rules -/

/-- The execute phase of an instruction writes only the parts that are its own: memory is written by LD B
and LD [I] alone, the display by CLS and DRW alone, the stack by CALL alone, `SP` by CALL and RET alone,
`KEY`, `Q` and `KEYMAP` by none (R24, R26, R27, R29, R32, R34, R36, R41; that LD B keeps `I` is the spec's
decision D23). -/
def Obligations.InstructionsWriteOnlyTheirParts : Prop :=
  ∀ (i : Instr) (s t : State), exec i s = .next t → Frame (writtenParts i) s t

/-- `Q` is latched at reset from the host's selection and written by nothing after reset; six instructions
read it (each has a state in which another profile gives another effect), and every other instruction acts
alike under every profile (R38). -/
def Obligations.ProfileIsImmutable : Prop :=
  (∀ a s, launch a = some s → s.q = a.q) ∧
  (∀ s t : State, step s = .next t → t.q = s.q) ∧
  (∀ (s t : State) a, s.hostAct a = some t → t.q = s.q ∨ ∃ l, a = .reset l ∧ t.q = l.q) ∧
  (∀ (i : Instr) (s t : State) (p : Quirks), readsProfile i = false → exec i s = .next t →
    exec i (s.setQ p) = .next (t.setQ p)) ∧
  (∀ i ∈ [Instr.shr 1#4 2#4, .shl 1#4 2#4, .jpV0 0x300#12 3#4, .addI 2#4, .storeRegs 0#4, .loadRegs 0#4],
    readsProfile i = true ∧
    ∃ s t p, exec i s = .next t ∧ exec i (s.setQ p) ≠ .next (t.setQ p))

/-- Of the host's inputs an instruction reads at most its own: `KEY` by SKP and SKNP alone, the symbols by
LD Vx,K alone, the random source by RND alone; every other instruction acts alike whatever they hold (R90,
R11, R36, R142, R126). -/
def Obligations.InputsReachOnlyTheirInstructions : Prop :=
  ∀ (i : Instr) (s t : State), exec i s = .next t →
    ((∀ x, i ≠ .skp x ∧ i ≠ .sknp x) → ∀ k : BitVec 16,
      exec i (s.setHost { s.host with keys := k }) = .next (t.setHost { t.host with keys := k })) ∧
    ((∀ x, i ≠ .ldVxK x) → ∀ l : List Byte,
      exec i (s.setHost { s.host with syms := l }) = .next (t.setHost { t.host with syms := l })) ∧
    ((∀ x kk, i ≠ .rnd x kk) → ∀ (l : List Byte) (n : Nat),
      exec i (s.setHost { s.host with rndFeed := l, draws := n }) =
        .next (t.setHost { t.host with rndFeed := l, draws := n }))

/-- Two memories in canonical form that read alike are equal lists: equal memories are equal data. -/
def Obligations.CanonicalMemoryIsUnique : Prop :=
  ∀ m n : Memory, m.wf → n.wf → (∀ a, m.read a = n.read a) → m = n

/-- A store is seen by the next fetch: after a block store the word fetched inside the block is made of the
registers just stored (R63). -/
def Obligations.FetchSeesStores : Prop :=
  ∀ (x : Reg) (s : State) (k : Nat) (_ : k < 15), s.i.toNat + 15 ≤ 4095 →
    ∃ t, exec (.storeRegs x) s = .next t ∧
      (t.setPc (BitVec.ofNat 16 (s.i.toNat + k))).fetchWord.toNat =
        (s.getV (BitVec.ofNat 4 k)).toNat * 256 + (s.getV (BitVec.ofNat 4 (k + 1))).toNat

/-! ## The invariant -/

/-- The state after reset meets the invariant. -/
def Obligations.ResetMeetsInvariant : Prop := State.reset.Inv

/-- Every step keeps the invariant: canonical memory, `PC` and the held return addresses in the ranges of
R25 and R31, a fault recorded exactly in `FAULTED` (R43), `KEYMAP` total on its 16 symbols (R8). -/
def Obligations.StepKeepsInvariant : Prop :=
  ∀ s t : State, s.Inv → step s = .next t → t.Inv

/-- What the host may do keeps the invariant: driving keys, supplying symbols and random bytes, and any
reset whose key table is defined on 16 symbols, whatever its font, ROM, profile and stack contents
(R47, R190, R191). -/
def Obligations.HostKeepsInvariant : Prop :=
  ∀ (s t : State) (a : HostAction), s.Inv → (∀ l, a = .reset l → l.keymap.wf) →
    s.hostAct a = some t → t.Inv

/-! ## Reset -/

/-- The reset values the spec tabulates: `PC` from the source, `SP` derived, the rest decisions D7 and D18
of the spec; memory reads as the font table and zeros (R191). -/
def Obligations.ResetValues : Prop :=
  State.reset.pc = 0x200#16 ∧ State.reset.sp = 0 ∧ (∀ r, State.reset.getV r = 0) ∧ State.reset.i = 0 ∧
  State.reset.dt = 0 ∧ State.reset.st = 0 ∧ (∀ x y, pixelAt State.reset.fb x y = false) ∧
  State.reset.status = .running ∧ State.reset.record = { cause := .none, info := 0, pc := 0 } ∧
  (∀ a, 80 ≤ a → State.reset.mem.read a = 0) ∧
  (∀ a (h : a < 80), State.reset.mem.read a = defaultFont[a]'h)

/-- A launch loads the font and the ROM verbatim and zeros the rest, for every profile and every key table;
a ROM above 3584 bytes is rejected; the launch with the default arguments and no ROM is the reset state,
whose first step halts (R191, R193; the zero fill is the spec's decision D18; that State.reset has the empty
ROM, and its profile, key table, stack and inputs, are the model's choices, assumptions 1, 2, 3, 4 and 6, its
font is presumed, assumption 9). -/
def Obligations.LaunchLoadsFontAndRom : Prop :=
  (∀ a : LaunchArgs, 3584 < a.rom.length → launch a = none) ∧
  (∀ a : LaunchArgs, a.rom.length ≤ 3584 → ∃ s, launch a = some s ∧ s.pc = 0x200#16 ∧ s.q = a.q ∧
    s.status = .running ∧ s.keymap = a.keymap ∧
    ∀ k, s.mem.read k =
      if 0x200 ≤ k ∧ k < 0x200 + a.rom.length then a.rom.getD (k - 0x200) 0
      else if k < 80 then a.font.toList.getD k 0 else 0) ∧
  launch defaultArgs = some State.reset ∧
  (∃ t, step State.reset = .next t ∧ t.status = .halted)

/-! ## Control flow -/

/-- JP loads its target and changes nothing else (R100). -/
def Obligations.JumpLoadsTarget : Prop :=
  ∀ (nnn : Addr) (s : State), ∃ t, exec (.jp nnn) s = .next t ∧ t.pc.toNat = nnn.toNat ∧ Frame [.pc] s t

/-- CALL below the limit stores the address after it at `STACK[SP]`, raises `SP` by one and jumps; the other
entries stay (R101; the index is the spec's decision D20). -/
def Obligations.CallPushesReturnAddress : Prop :=
  ∀ (nnn : Addr) (s : State), s.sp.val < 16 →
    ∃ t, exec (.call nnn) s = .next t ∧ t.sp.val = s.sp.val + 1 ∧ t.pc.toNat = nnn.toNat ∧
      (∀ k : Fin 16, t.stack[k] = if k.val = s.sp.val then s.pc else s.stack[k]) ∧
      Frame [.pc, .stack, .sp] s t

/-- RET pops into `PC` and does not erase the entry; with an empty stack it raises StackUnderflow with the
word 0x00EE, `SP` stays 0 and `PC` stays (R102, R164; the index of the popped entry is the spec's decision
D20, the record its decision D7). -/
def Obligations.ReturnPopsOrFaults : Prop :=
  encode .ret = 0x00EE#16 ∧
  (∀ (s : State) (k : Fin 16), s.sp.val = k.val + 1 →
    ∃ t, exec .ret s = .next t ∧ t.sp.val = k.val ∧ t.pc = s.stack[k] ∧ Frame [.pc, .sp] s t) ∧
  (∀ s : State, s.sp.val = 0 →
    ∃ t, exec .ret s = .next t ∧ FaultedWith .stackUnderflow 0x00EE#16 (s.pc - 2#16) s t ∧
      t.sp.val = 0 ∧ t.pc = s.pc)

/-- The four register skips add 2 to `PC` when their condition holds, else nothing, and write no register
(R103 to R106). -/
def Obligations.SkipsCompareRegisters : Prop :=
  ∀ (x y : Reg) (kk : Byte) (s : State),
    (∃ t, exec (.seImm x kk) s = .next t ∧
      t.pc = (if (s.getV x).toNat = kk.toNat then s.pc + 2#16 else s.pc) ∧ Frame [.pc] s t) ∧
    (∃ t, exec (.sneImm x kk) s = .next t ∧
      t.pc = (if (s.getV x).toNat = kk.toNat then s.pc else s.pc + 2#16) ∧ Frame [.pc] s t) ∧
    (∃ t, exec (.seReg x y) s = .next t ∧
      t.pc = (if (s.getV x).toNat = (s.getV y).toNat then s.pc + 2#16 else s.pc) ∧ Frame [.pc] s t) ∧
    (∃ t, exec (.sneReg x y) s = .next t ∧
      t.pc = (if (s.getV x).toNat = (s.getV y).toNat then s.pc else s.pc + 2#16) ∧ Frame [.pc] s t)

/-- JP V0,nnn: the whole address plus the profile's register, not masked (R125; the spec's decision D14). -/
def Obligations.JumpWithOffsetAdds : Prop :=
  ∀ (nnn : Addr) (x : Reg) (s : State), ∃ t, exec (.jpV0 nnn x) s = .next t ∧
    t.pc.toNat = nnn.toNat + (if s.q.jumpVx then s.getV x else s.getV 0#4).toNat ∧ Frame [.pc] s t

/-! ## Arithmetic -/

/-- LD Vx,kk, word 6xkk: `V[x]` takes the immediate; no other register, `VF` included unless it is `V[x]`,
and nothing else changes (R110). -/
def Obligations.LoadImmediateSetsRegister : Prop :=
  ∀ (x : Reg) (kk : Byte) (s : State),
    (encode (.ldImm x kk)).toNat = 0x6000 + x.toNat * 0x100 + kk.toNat ∧
    ∃ t, exec (.ldImm x kk) s = .next t ∧ t.getV x = kk ∧ RegsExcept [x] s t ∧ Frame [.v] s t

/-- ADD Vx,kk wraps mod 256 and writes no flag (R111). -/
def Obligations.AddImmediateWraps : Prop :=
  ∀ (x : Reg) (kk : Byte) (s : State), ∃ t, exec (.addImm x kk) s = .next t ∧
    (t.getV x).toNat = ((s.getV x).toNat + kk.toNat) % 256 ∧ RegsExcept [x] s t ∧ Frame [.v] s t

/-- LD Vx,Vy, OR, AND and XOR, bit by bit; no other register changes, so `VF` is left as it was unless it is
`V[x]` (R112 to R115; that the bitwise operations keep `VF` is the spec's reading of silence, U9). -/
def Obligations.MoveAndBitwiseKeepFlag : Prop :=
  ∀ (x y : Reg) (s : State),
    (∃ t, exec (.ldReg x y) s = .next t ∧ t.getV x = s.getV y ∧ RegsExcept [x] s t ∧ Frame [.v] s t) ∧
    (∃ t, exec (.orReg x y) s = .next t ∧
      (∀ k, (t.getV x).getLsbD k = ((s.getV x).getLsbD k || (s.getV y).getLsbD k)) ∧
      RegsExcept [x] s t ∧ Frame [.v] s t) ∧
    (∃ t, exec (.andReg x y) s = .next t ∧
      (∀ k, (t.getV x).getLsbD k = ((s.getV x).getLsbD k && (s.getV y).getLsbD k)) ∧
      RegsExcept [x] s t ∧ Frame [.v] s t) ∧
    (∃ t, exec (.xorReg x y) s = .next t ∧
      (∀ k, (t.getV x).getLsbD k = ((s.getV x).getLsbD k ^^ (s.getV y).getLsbD k)) ∧
      RegsExcept [x] s t ∧ Frame [.v] s t)

/-- ADD Vx,Vy, word 8xy4: `VF` is 1 exactly when the sum of the old values exceeds 255, for every `x`; the
result is the sum mod 256 for every `x` but 15, where the flag stays (R116; for `x` = 15 the spec's decision
D12). -/
def Obligations.AddRegisterSetsCarry : Prop :=
  ∀ (x y : Reg) (s : State),
    (encode (.addReg x y)).toNat = 0x8004 + x.toNat * 0x100 + y.toNat * 0x10 ∧
    ∃ t, exec (.addReg x y) s = .next t ∧
      (t.getV regF).toNat = (if 255 < (s.getV x).toNat + (s.getV y).toNat then 1 else 0) ∧
      (x ≠ regF → (t.getV x).toNat = ((s.getV x).toNat + (s.getV y).toNat) % 256) ∧
      RegsExcept [x, regF] s t ∧ Frame [.v] s t

/-- SUB and SUBN: the difference mod 256, and `VF` 1 exactly when there is no borrow, the flag staying when
`x` is 15 (R117, R119, R121; the write order is the spec's decision D12). -/
def Obligations.SubtractionsSetNoBorrow : Prop :=
  ∀ (x y : Reg) (s : State),
    (∃ t, exec (.sub x y) s = .next t ∧
      (t.getV regF).toNat = (if (s.getV y).toNat ≤ (s.getV x).toNat then 1 else 0) ∧
      (x ≠ regF → (t.getV x).toNat = ((s.getV x).toNat + 256 - (s.getV y).toNat) % 256) ∧
      RegsExcept [x, regF] s t ∧ Frame [.v] s t) ∧
    (∃ t, exec (.subn x y) s = .next t ∧
      (t.getV regF).toNat = (if (s.getV x).toNat ≤ (s.getV y).toNat then 1 else 0) ∧
      (x ≠ regF → (t.getV x).toNat = ((s.getV y).toNat + 256 - (s.getV x).toNat) % 256) ∧
      RegsExcept [x, regF] s t ∧ Frame [.v] s t)

/-- SHR and SHL: one position, from `V[y]` under `Q.shift_copy` and from `V[x]` else; `VF` is the bit shifted
out (R118, R120; the spec's decisions D12 and D13). -/
def Obligations.ShiftsFollowProfile : Prop :=
  ∀ (x y : Reg) (s : State) (v : Nat), v = (if s.q.shiftCopy then s.getV y else s.getV x).toNat →
    (∃ t, exec (.shr x y) s = .next t ∧ (t.getV regF).toNat = v % 2 ∧
      (x ≠ regF → (t.getV x).toNat = v / 2) ∧ RegsExcept [x, regF] s t ∧ Frame [.v] s t) ∧
    (∃ t, exec (.shl x y) s = .next t ∧ (t.getV regF).toNat = v / 128 ∧
      (x ≠ regF → (t.getV x).toNat = 2 * v % 256) ∧ RegsExcept [x, regF] s t ∧ Frame [.v] s t)

/-- RND: one byte `b` of the random source, whatever it is, ANDed with the mask; the next byte lined up is
the one drawn and is consumed, and with none lined up the byte is free (R126; the form of the source is the
model's choice, assumption 5). It draws no pixel. -/
def Obligations.RandomByteIsMasked : Prop :=
  ∀ (x : Reg) (kk : Byte) (s : State), ∃ t, exec (.rnd x kk) s = .next t ∧
    (∃ b : Byte, (∀ k, (t.getV x).getLsbD k = (b.getLsbD k && kk.getLsbD k)) ∧
      (∀ c rest, s.host.rndFeed = c :: rest → b = c ∧ t.host.rndFeed = rest) ∧
      (s.host.rndFeed = [] → b = Config.freeRnd s.host.draws ∧ t.host.rndFeed = [])) ∧
    t.host.draws = s.host.draws + 1 ∧ RegsExcept [x] s t ∧ Frame [.v, .rndFeed, .draws] s t

/-! ## Index register and memory -/

/-- LD I,nnn and LD F,Vx: `I` takes the address, or five times the low nibble; nothing else changes and
memory is not accessed (R130, R132). -/
def Obligations.IndexLoads : Prop :=
  (∀ (nnn : Addr) (s : State), ∃ t, exec (.ldI nnn) s = .next t ∧ t.i.toNat = nnn.toNat ∧ Frame [.i] s t) ∧
  (∀ (x : Reg) (s : State), ∃ t, exec (.ldF x) s = .next t ∧
    t.i.toNat = (s.getV x).toNat % 16 * 5 ∧ Frame [.i] s t)

/-- ADD I,Vx: the sum mod 65536; `VF` is written only under `Q.addi_vf`, 1 when the sum exceeds 0xFFF and 0
else, even when `x` is 15 (R131; the spec's decision D11). -/
def Obligations.AddToIndexFollowsProfile : Prop :=
  ∀ (x : Reg) (s : State), ∃ t, exec (.addI x) s = .next t ∧
    t.i.toNat = (s.i.toNat + (s.getV x).toNat) % 65536 ∧
    (s.q.addiVf = false → t.v = s.v) ∧
    (s.q.addiVf = true →
      (t.getV regF).toNat = (if 0xFFF < s.i.toNat + (s.getV x).toNat then 1 else 0) ∧
      RegsExcept [regF] s t) ∧
    Frame [.i, .v] s t

/-- LD B,Vx: hundreds, tens and ones at `I`, `I + 1`, `I + 2`, each digit below 10 and together the value;
every other byte, and `I`, are unchanged (R133; that `I` stays is the spec's decision D23). -/
def Obligations.DecimalDigitsAreStored : Prop :=
  ∀ (x : Reg) (s : State), s.i.toNat + 2 ≤ 4095 →
    ∃ t, exec (.ldB x) s = .next t ∧
      (t.mem.read s.i.toNat).toNat ≤ 2 ∧ (t.mem.read (s.i.toNat + 1)).toNat < 10 ∧
      (t.mem.read (s.i.toNat + 2)).toNat < 10 ∧
      (t.mem.read s.i.toNat).toNat * 100 + (t.mem.read (s.i.toNat + 1)).toNat * 10 +
        (t.mem.read (s.i.toNat + 2)).toNat = (s.getV x).toNat ∧
      (∀ a, a < s.i.toNat ∨ s.i.toNat + 2 < a → t.mem.read a = s.mem.read a) ∧
      Frame [.mem] s t

/-- LD [I],Vx: all 16 registers go to the 16 bytes at `I`, whatever the field says; every other byte is
unchanged; `I` advances by 16 exactly under `Q.block_inc` (R134). -/
def Obligations.BlockStoreWritesAllRegisters : Prop :=
  ∀ (x : Reg) (s : State), s.i.toNat + 15 ≤ 4095 →
    ∃ t, exec (.storeRegs x) s = .next t ∧
      (∀ r : Reg, t.mem.read (s.i.toNat + r.toNat) = s.getV r) ∧
      (∀ a, a < s.i.toNat ∨ s.i.toNat + 15 < a → t.mem.read a = s.mem.read a) ∧
      t.i.toNat = s.i.toNat + (if s.q.blockInc then 16 else 0) ∧ Frame [.mem, .i] s t

/-- LD Vx,[I]: all 16 registers, `VF` among them, take the 16 bytes at `I`, whatever the field says; `I`
advances by 16 exactly under `Q.block_inc` (R135). -/
def Obligations.BlockLoadReadsAllRegisters : Prop :=
  ∀ (x : Reg) (s : State), s.i.toNat + 15 ≤ 4095 →
    ∃ t, exec (.loadRegs x) s = .next t ∧
      (∀ r : Reg, t.getV r = s.mem.read (s.i.toNat + r.toNat)) ∧
      t.i.toNat = s.i.toNat + (if s.q.blockInc then 16 else 0) ∧ Frame [.v, .i] s t

/-- The round trip of the source: a block store and then a block load from the same address give the
original registers, whatever the registers held in between and under every profile (R135). -/
def Obligations.BlockRoundTrip : Prop :=
  ∀ (x y : Reg) (s t : State) (v : Vector Byte 16), s.i.toNat + 15 ≤ 4095 →
    exec (.storeRegs x) s = .next t →
    ∃ u, exec (.loadRegs y) ((t.setAllV v).setI s.i) = .next u ∧ u.v = s.v ∧ u.i = t.i

/-! ## Keypad and timers -/

/-- SKP and SKNP test the key `V[x]` names and are complementary; a value of 16 or more counts as not pressed
(R140, R141; the spec's decision D15). -/
def Obligations.KeypadSkips : Prop :=
  ∀ (x : Reg) (s : State) (p : Bool),
    p = ((s.getV x).toNat < 16 && s.host.keys.getLsbD (s.getV x).toNat) →
    (∃ t, exec (.skp x) s = .next t ∧ t.pc = (if p then s.pc + 2#16 else s.pc) ∧ Frame [.pc] s t) ∧
    (∃ t, exec (.sknp x) s = .next t ∧ t.pc = (if p then s.pc else s.pc + 2#16) ∧ Frame [.pc] s t)

/-- LD Vx,K with a symbol of `KEYMAP`: `V[x]` takes its key code, exactly one symbol is consumed, `KEY` is
neither read nor changed (R142; the channel is the spec's decision D16). -/
def Obligations.KeyWaitMapsSymbol : Prop :=
  ∀ (x : Reg) (s : State) (sym : Byte) (rest : List Byte) (k : Key), s.keymap.wf →
    s.host.syms = sym :: rest → (sym, k) ∈ s.keymap →
    ∃ t, exec (.ldVxK x) s = .next t ∧ (t.getV x).toNat = k.toNat ∧ t.host.syms = rest ∧
      RegsExcept [x] s t ∧ Frame [.v, .syms] s t

/-- LD Vx,DT, LD DT,Vx and LD ST,Vx in the execute phase (R145 to R147). -/
def Obligations.TimerInstructionsCopy : Prop :=
  ∀ (x : Reg) (s : State),
    (∃ t, exec (.ldVxDt x) s = .next t ∧ t.getV x = s.dt ∧ RegsExcept [x] s t ∧ Frame [.v] s t) ∧
    (∃ t, exec (.ldDtVx x) s = .next t ∧ t.dt = s.getV x ∧ Frame [.dt] s t) ∧
    (∃ t, exec (.ldStVx x) s = .next t ∧ t.st = s.getV x ∧ Frame [.st] s t)

/-! ## Display -/

/-- CLS darkens every pixel and changes nothing else (R150). -/
def Obligations.ClearScreenDarkensAll : Prop :=
  ∀ s : State, ∃ t, exec .cls s = .next t ∧ (∀ px py, pixelAt t.fb px py = false) ∧
    (∀ b ∈ t.snapshot, b = false) ∧ Frame [.fb] s t

/-- DRW: every pixel of the grid is XORed with the sprite bit that lands on it, the sprite clipped at the
right and bottom edges; `VF` is 1 exactly when a sprite bit that is 1 met a lit pixel, and 0 else; `I`,
memory and every other register are unchanged (R151, R152; origins before flag and the range check of
scanned rows are the spec's decision D21). -/
def Obligations.DrawXorsSprite : Prop :=
  ∀ (x y : Reg) (n : Count) (s : State) (ox oy rows : Nat), ox = (s.getV x).toNat % 64 →
    oy = (s.getV y).toNat % 32 → rows = min n.toNat (32 - oy) →
    (rows = 0 ∨ s.i.toNat + rows - 1 ≤ 4095) →
    ∃ t, exec (.drw x y n) s = .next t ∧
      (∀ px py, px < 64 → py < 32 →
        (pixelAt t.fb px py = true ↔ ¬ (pixelAt s.fb px py = true ↔ spriteBit s ox oy rows px py))) ∧
      ((∃ px py, px < 64 ∧ py < 32 ∧ spriteBit s ox oy rows px py ∧ pixelAt s.fb px py = true) →
        t.getV regF = 1) ∧
      ((∀ px py, px < 64 → py < 32 → spriteBit s ox oy rows px py → pixelAt s.fb px py = false) →
        t.getV regF = 0) ∧
      RegsExcept [regF] s t ∧ Frame [.v, .fb] s t

/-- Drawing the same sprite twice at the same origin restores the display, and the second draw sets `VF`
exactly when the first lit some pixel (R153). -/
def Obligations.DrawTwiceRestores : Prop :=
  ∀ (x y x2 y2 : Reg) (n : Count) (s t s2 : State), exec (.drw x y n) s = .next t →
    s.status = .running → t.status = .running →
    s2.fb = t.fb → s2.i = s.i → (∀ a, s2.mem.read a = s.mem.read a) →
    (s2.getV x2).toNat % 64 = (s.getV x).toNat % 64 → (s2.getV y2).toNat % 32 = (s.getV y).toNat % 32 →
    ∃ u, exec (.drw x2 y2 n) s2 = .next u ∧ u.fb = s.fb ∧
      (u.getV regF = 1 ↔ ∃ px py, pixelAt s.fb px py = false ∧ pixelAt t.fb px py = true)

/-- A draw changes only pixels inside its clipped rectangle, and a draw on a blank display gives `VF` 0
(R153). -/
def Obligations.DrawStaysInRectangle : Prop :=
  ∀ (x y : Reg) (n : Count) (s t : State), s.status = .running → exec (.drw x y n) s = .next t →
    (∀ px py, pixelAt t.fb px py ≠ pixelAt s.fb px py →
      (s.getV x).toNat % 64 ≤ px ∧ px ≤ min ((s.getV x).toNat % 64 + 7) 63 ∧
      (s.getV y).toNat % 32 ≤ py ∧ py ≤ min ((s.getV y).toNat % 32 + n.toNat - 1) 31) ∧
    ((∀ px py, pixelAt s.fb px py = false) → t.status = .running → t.getV regF = 0)

/-- The snapshot holds the 2048 pixels, row by row: pixel `(x, y)` at index `64 * y + x` (R154, R35; the
layout is the spec's decision D21). -/
def Obligations.SnapshotIsRowMajor : Prop :=
  ∀ (s : State) (x y : Nat), x < 64 → y < 32 →
    s.snapshot.length = 2048 ∧ s.snapshot[64 * y + x]? = some (pixelAt s.fb x y)
end

