-- ==== Sys2Proof/Laws/Decode.lean ====
section
/-! SUPPORT. The fields of a word in arithmetic, and the fields of a packed word: what every proof about
the encoding starts from. -/

namespace Sys2Proof

/-! ## Fields in arithmetic -/

theorem fieldOp_toNat (w : Word) : (fieldOp w).toNat = w.toNat / 0x1000 := by
  have := w.isLt
  simp [fieldOp, Nat.shiftRight_eq_div_pow]; omega
theorem fieldNnn_toNat (w : Word) : (fieldNnn w).toNat = w.toNat % 0x1000 := by
  simp [fieldNnn]
theorem fieldX_toNat (w : Word) : (fieldX w).toNat = w.toNat / 0x100 % 0x10 := by
  simp [fieldX, Nat.shiftRight_eq_div_pow]
theorem fieldY_toNat (w : Word) : (fieldY w).toNat = w.toNat / 0x10 % 0x10 := by
  simp [fieldY, Nat.shiftRight_eq_div_pow]
theorem fieldKk_toNat (w : Word) : (fieldKk w).toNat = w.toNat % 0x100 := by
  simp [fieldKk]
theorem fieldN_toNat (w : Word) : (fieldN w).toNat = w.toNat % 0x10 := by
  simp [fieldN]
theorem jumpRegField_toNat (a : Addr) : (jumpRegField a).toNat = a.toNat / 0x100 := by
  have := a.isLt
  simp [jumpRegField, Nat.shiftRight_eq_div_pow]; omega
theorem highByte_toNat (w : Word) : (highByte w).toNat = w.toNat / 0x100 := by
  have := w.isLt
  simp [highByte, Nat.shiftRight_eq_div_pow]; omega
theorem lowByte_toNat (w : Word) : (lowByte w).toNat = w.toNat % 0x100 := by
  simp [lowByte]

theorem wordOfBytes_toNat (hi lo : Byte) : (wordOfBytes hi lo).toNat = hi.toNat * 256 + lo.toNat := by
  have := hi.isLt; have := lo.isLt
  simp [wordOfBytes]; omega

/-- The two bytes of a word in memory order are that word again. -/
@[simp] theorem wordOfBytes_bytes (w : Word) : wordOfBytes (highByte w) (lowByte w) = w :=
  BitVec.eq_of_toNat_eq (by rw [wordOfBytes_toNat, highByte_toNat, lowByte_toNat]; omega)

/-! ## Packed words in arithmetic -/

theorem packNnn_toNat {op : Nat} (h : op < 16) (nnn : Addr) :
    (packNnn op nnn).toNat = op * 0x1000 + nnn.toNat := by
  have := nnn.isLt
  simp [packNnn]; omega
theorem packXkk_toNat {op : Nat} (h : op < 16) (x : Reg) (kk : Byte) :
    (packXkk op x kk).toNat = op * 0x1000 + x.toNat * 0x100 + kk.toNat := by
  have := x.isLt; have := kk.isLt
  simp [packXkk]; omega
theorem packXyn_toNat {op : Nat} (h : op < 16) (x y : Reg) (n : Count) :
    (packXyn op x y n).toNat = op * 0x1000 + x.toNat * 0x100 + y.toNat * 0x10 + n.toNat := by
  have := x.isLt; have := y.isLt; have := n.isLt
  simp [packXyn]; omega

/-! ## Fields of packed words -/

theorem fieldOp_packNnn {op : Nat} (h : op < 16) (nnn : Addr) : (fieldOp (packNnn op nnn)).toNat = op := by
  have := nnn.isLt
  rw [fieldOp_toNat, packNnn_toNat h]; omega
theorem fieldNnn_packNnn {op : Nat} (h : op < 16) (nnn : Addr) : fieldNnn (packNnn op nnn) = nnn :=
  BitVec.eq_of_toNat_eq (by
    have := nnn.isLt
    rw [fieldNnn_toNat, packNnn_toNat h]; omega)
theorem fieldX_packNnn {op : Nat} (h : op < 16) (nnn : Addr) : fieldX (packNnn op nnn) = jumpRegField nnn :=
  BitVec.eq_of_toNat_eq (by
    have := nnn.isLt
    rw [fieldX_toNat, packNnn_toNat h, jumpRegField_toNat]; omega)

theorem fieldOp_packXkk {op : Nat} (h : op < 16) (x : Reg) (kk : Byte) :
    (fieldOp (packXkk op x kk)).toNat = op := by
  have := x.isLt; have := kk.isLt
  rw [fieldOp_toNat, packXkk_toNat h]; omega
theorem fieldX_packXkk {op : Nat} (h : op < 16) (x : Reg) (kk : Byte) : fieldX (packXkk op x kk) = x :=
  BitVec.eq_of_toNat_eq (by
    have := x.isLt; have := kk.isLt
    rw [fieldX_toNat, packXkk_toNat h]; omega)
theorem fieldKk_packXkk {op : Nat} (h : op < 16) (x : Reg) (kk : Byte) : fieldKk (packXkk op x kk) = kk :=
  BitVec.eq_of_toNat_eq (by
    have := x.isLt; have := kk.isLt
    rw [fieldKk_toNat, packXkk_toNat h]; omega)

theorem fieldOp_packXyn {op : Nat} (h : op < 16) (x y : Reg) (n : Count) :
    (fieldOp (packXyn op x y n)).toNat = op := by
  have := x.isLt; have := y.isLt; have := n.isLt
  rw [fieldOp_toNat, packXyn_toNat h]; omega
theorem fieldX_packXyn {op : Nat} (h : op < 16) (x y : Reg) (n : Count) : fieldX (packXyn op x y n) = x :=
  BitVec.eq_of_toNat_eq (by
    have := x.isLt; have := y.isLt; have := n.isLt
    rw [fieldX_toNat, packXyn_toNat h]; omega)
theorem fieldY_packXyn {op : Nat} (h : op < 16) (x y : Reg) (n : Count) : fieldY (packXyn op x y n) = y :=
  BitVec.eq_of_toNat_eq (by
    have := x.isLt; have := y.isLt; have := n.isLt
    rw [fieldY_toNat, packXyn_toNat h]; omega)
theorem fieldN_packXyn {op : Nat} (h : op < 16) (x y : Reg) (n : Count) : fieldN (packXyn op x y n) = n :=
  BitVec.eq_of_toNat_eq (by
    have := x.isLt; have := y.isLt; have := n.isLt
    rw [fieldN_toNat, packXyn_toNat h]; omega)

/-! ## Masks -/

/-- The mask of the formats selected by the class alone keeps the class. -/
theorem and_F000 (w : Word) : w &&& 0xF000#16 = (fieldOp w).setWidth 16 <<< 12 := by
  apply BitVec.eq_of_getLsbD_eq
  intro i hi
  interval_cases i <;> simp [fieldOp]

/-- The mask of format `XY` keeps the class and the selector. -/
theorem and_F00F (w : Word) :
    w &&& 0xF00F#16 = (fieldOp w).setWidth 16 <<< 12 ||| (fieldN w).setWidth 16 := by
  apply BitVec.eq_of_getLsbD_eq
  intro i hi
  interval_cases i <;> simp [fieldOp, fieldN]

/-- The mask of format `X` keeps the class and the low byte. -/
theorem and_F0FF (w : Word) :
    w &&& 0xF0FF#16 = (fieldOp w).setWidth 16 <<< 12 ||| (fieldKk w).setWidth 16 := by
  apply BitVec.eq_of_getLsbD_eq
  intro i hi
  interval_cases i <;> simp [fieldOp, fieldKk]

/-- The mask of format `FIXED` keeps the word. -/
theorem and_FFFF (w : Word) : w &&& 0xFFFF#16 = w := by
  apply BitVec.eq_of_getLsbD_eq
  intro i hi
  interval_cases i <;> simp

theorem packNnn_and {op : Nat} (h : op < 16) (nnn : Addr) :
    packNnn op nnn &&& 0xF000#16 = BitVec.ofNat 16 (op * 0x1000) := by
  have e : fieldOp (packNnn op nnn) = BitVec.ofNat 4 op :=
    BitVec.eq_of_toNat_eq (by rw [fieldOp_packNnn h]; simp; omega)
  rw [and_F000, e]
  interval_cases op <;> rfl

theorem packXkk_and {op : Nat} (h : op < 16) (x : Reg) (kk : Byte) :
    packXkk op x kk &&& 0xF000#16 = BitVec.ofNat 16 (op * 0x1000) := by
  have e : fieldOp (packXkk op x kk) = BitVec.ofNat 4 op :=
    BitVec.eq_of_toNat_eq (by rw [fieldOp_packXkk h]; simp; omega)
  rw [and_F000, e]
  interval_cases op <;> rfl

theorem packXkk_and_low {op : Nat} (h : op < 16) (x : Reg) (kk : Byte) :
    packXkk op x kk &&& 0xF0FF#16 = (BitVec.ofNat 4 op).setWidth 16 <<< 12 ||| kk.setWidth 16 := by
  have e : fieldOp (packXkk op x kk) = BitVec.ofNat 4 op :=
    BitVec.eq_of_toNat_eq (by rw [fieldOp_packXkk h]; simp; omega)
  rw [and_F0FF, e, fieldKk_packXkk h]

theorem packXyn_and {op : Nat} (h : op < 16) (x y : Reg) (n : Count) :
    packXyn op x y n &&& 0xF000#16 = BitVec.ofNat 16 (op * 0x1000) := by
  have e : fieldOp (packXyn op x y n) = BitVec.ofNat 4 op :=
    BitVec.eq_of_toNat_eq (by rw [fieldOp_packXyn h]; simp; omega)
  rw [and_F000, e]
  interval_cases op <;> rfl

theorem packXyn_and_low {op : Nat} (h : op < 16) (x y : Reg) (n : Count) :
    packXyn op x y n &&& 0xF00F#16 = (BitVec.ofNat 4 op).setWidth 16 <<< 12 ||| n.setWidth 16 := by
  have e : fieldOp (packXyn op x y n) = BitVec.ofNat 4 op :=
    BitVec.eq_of_toNat_eq (by rw [fieldOp_packXyn h]; simp; omega)
  rw [and_F00F, e, fieldN_packXyn h]

end Sys2Proof
end

