-- ==== Sys2Proof/Laws/State.lean ====
section
/-! SUPPORT. One lemma per field per update of State (Ops.lean's setters), each true by rfl, so that no
later proof unfolds a record update; and what a register reads as after each. -/

namespace Sys2Proof.Machine

variable (s : State)

/-! ## setV -/

@[simp] theorem State.setV_v (x : Reg) (b : Byte) : (s.setV x b).v = s.v.set x.toNat b x.isLt := rfl
@[simp] theorem State.setV_i (x : Reg) (b : Byte) : (s.setV x b).i = s.i := rfl
@[simp] theorem State.setV_pc (x : Reg) (b : Byte) : (s.setV x b).pc = s.pc := rfl
@[simp] theorem State.setV_stack (x : Reg) (b : Byte) : (s.setV x b).stack = s.stack := rfl
@[simp] theorem State.setV_sp (x : Reg) (b : Byte) : (s.setV x b).sp = s.sp := rfl
@[simp] theorem State.setV_dt (x : Reg) (b : Byte) : (s.setV x b).dt = s.dt := rfl
@[simp] theorem State.setV_st (x : Reg) (b : Byte) : (s.setV x b).st = s.st := rfl
@[simp] theorem State.setV_fb (x : Reg) (b : Byte) : (s.setV x b).fb = s.fb := rfl
@[simp] theorem State.setV_mem (x : Reg) (b : Byte) : (s.setV x b).mem = s.mem := rfl
@[simp] theorem State.setV_q (x : Reg) (b : Byte) : (s.setV x b).q = s.q := rfl
@[simp] theorem State.setV_keymap (x : Reg) (b : Byte) : (s.setV x b).keymap = s.keymap := rfl
@[simp] theorem State.setV_status (x : Reg) (b : Byte) : (s.setV x b).status = s.status := rfl
@[simp] theorem State.setV_record (x : Reg) (b : Byte) : (s.setV x b).record = s.record := rfl
@[simp] theorem State.setV_host (x : Reg) (b : Byte) : (s.setV x b).host = s.host := rfl

/-! ## setAllV -/

@[simp] theorem State.setAllV_v (w : Vector Byte 16) : (s.setAllV w).v = w := rfl
@[simp] theorem State.setAllV_i (w : Vector Byte 16) : (s.setAllV w).i = s.i := rfl
@[simp] theorem State.setAllV_pc (w : Vector Byte 16) : (s.setAllV w).pc = s.pc := rfl
@[simp] theorem State.setAllV_stack (w : Vector Byte 16) : (s.setAllV w).stack = s.stack := rfl
@[simp] theorem State.setAllV_sp (w : Vector Byte 16) : (s.setAllV w).sp = s.sp := rfl
@[simp] theorem State.setAllV_dt (w : Vector Byte 16) : (s.setAllV w).dt = s.dt := rfl
@[simp] theorem State.setAllV_st (w : Vector Byte 16) : (s.setAllV w).st = s.st := rfl
@[simp] theorem State.setAllV_fb (w : Vector Byte 16) : (s.setAllV w).fb = s.fb := rfl
@[simp] theorem State.setAllV_mem (w : Vector Byte 16) : (s.setAllV w).mem = s.mem := rfl
@[simp] theorem State.setAllV_q (w : Vector Byte 16) : (s.setAllV w).q = s.q := rfl
@[simp] theorem State.setAllV_keymap (w : Vector Byte 16) : (s.setAllV w).keymap = s.keymap := rfl
@[simp] theorem State.setAllV_status (w : Vector Byte 16) : (s.setAllV w).status = s.status := rfl
@[simp] theorem State.setAllV_record (w : Vector Byte 16) : (s.setAllV w).record = s.record := rfl
@[simp] theorem State.setAllV_host (w : Vector Byte 16) : (s.setAllV w).host = s.host := rfl

/-! ## setI -/

@[simp] theorem State.setI_v (a : Word) : (s.setI a).v = s.v := rfl
@[simp] theorem State.setI_i (a : Word) : (s.setI a).i = a := rfl
@[simp] theorem State.setI_pc (a : Word) : (s.setI a).pc = s.pc := rfl
@[simp] theorem State.setI_stack (a : Word) : (s.setI a).stack = s.stack := rfl
@[simp] theorem State.setI_sp (a : Word) : (s.setI a).sp = s.sp := rfl
@[simp] theorem State.setI_dt (a : Word) : (s.setI a).dt = s.dt := rfl
@[simp] theorem State.setI_st (a : Word) : (s.setI a).st = s.st := rfl
@[simp] theorem State.setI_fb (a : Word) : (s.setI a).fb = s.fb := rfl
@[simp] theorem State.setI_mem (a : Word) : (s.setI a).mem = s.mem := rfl
@[simp] theorem State.setI_q (a : Word) : (s.setI a).q = s.q := rfl
@[simp] theorem State.setI_keymap (a : Word) : (s.setI a).keymap = s.keymap := rfl
@[simp] theorem State.setI_status (a : Word) : (s.setI a).status = s.status := rfl
@[simp] theorem State.setI_record (a : Word) : (s.setI a).record = s.record := rfl
@[simp] theorem State.setI_host (a : Word) : (s.setI a).host = s.host := rfl
@[simp] theorem State.setI_getV (a : Word) (r : Reg) : (s.setI a).getV r = s.getV r := rfl

/-! ## setPc -/

@[simp] theorem State.setPc_v (a : Word) : (s.setPc a).v = s.v := rfl
@[simp] theorem State.setPc_i (a : Word) : (s.setPc a).i = s.i := rfl
@[simp] theorem State.setPc_pc (a : Word) : (s.setPc a).pc = a := rfl
@[simp] theorem State.setPc_stack (a : Word) : (s.setPc a).stack = s.stack := rfl
@[simp] theorem State.setPc_sp (a : Word) : (s.setPc a).sp = s.sp := rfl
@[simp] theorem State.setPc_dt (a : Word) : (s.setPc a).dt = s.dt := rfl
@[simp] theorem State.setPc_st (a : Word) : (s.setPc a).st = s.st := rfl
@[simp] theorem State.setPc_fb (a : Word) : (s.setPc a).fb = s.fb := rfl
@[simp] theorem State.setPc_mem (a : Word) : (s.setPc a).mem = s.mem := rfl
@[simp] theorem State.setPc_q (a : Word) : (s.setPc a).q = s.q := rfl
@[simp] theorem State.setPc_keymap (a : Word) : (s.setPc a).keymap = s.keymap := rfl
@[simp] theorem State.setPc_status (a : Word) : (s.setPc a).status = s.status := rfl
@[simp] theorem State.setPc_record (a : Word) : (s.setPc a).record = s.record := rfl
@[simp] theorem State.setPc_host (a : Word) : (s.setPc a).host = s.host := rfl
@[simp] theorem State.setPc_getV (a : Word) (r : Reg) : (s.setPc a).getV r = s.getV r := rfl

/-! ## setStack -/

@[simp] theorem State.setStack_v (k : Vector Word 16) (n : Fin 17) : (s.setStack k n).v = s.v := rfl
@[simp] theorem State.setStack_i (k : Vector Word 16) (n : Fin 17) : (s.setStack k n).i = s.i := rfl
@[simp] theorem State.setStack_pc (k : Vector Word 16) (n : Fin 17) : (s.setStack k n).pc = s.pc := rfl
@[simp] theorem State.setStack_stack (k : Vector Word 16) (n : Fin 17) : (s.setStack k n).stack = k := rfl
@[simp] theorem State.setStack_sp (k : Vector Word 16) (n : Fin 17) : (s.setStack k n).sp = n := rfl
@[simp] theorem State.setStack_dt (k : Vector Word 16) (n : Fin 17) : (s.setStack k n).dt = s.dt := rfl
@[simp] theorem State.setStack_st (k : Vector Word 16) (n : Fin 17) : (s.setStack k n).st = s.st := rfl
@[simp] theorem State.setStack_fb (k : Vector Word 16) (n : Fin 17) : (s.setStack k n).fb = s.fb := rfl
@[simp] theorem State.setStack_mem (k : Vector Word 16) (n : Fin 17) : (s.setStack k n).mem = s.mem := rfl
@[simp] theorem State.setStack_q (k : Vector Word 16) (n : Fin 17) : (s.setStack k n).q = s.q := rfl
@[simp] theorem State.setStack_keymap (k : Vector Word 16) (n : Fin 17) : (s.setStack k n).keymap = s.keymap := rfl
@[simp] theorem State.setStack_status (k : Vector Word 16) (n : Fin 17) : (s.setStack k n).status = s.status := rfl
@[simp] theorem State.setStack_record (k : Vector Word 16) (n : Fin 17) : (s.setStack k n).record = s.record := rfl
@[simp] theorem State.setStack_host (k : Vector Word 16) (n : Fin 17) : (s.setStack k n).host = s.host := rfl
@[simp] theorem State.setStack_getV (k : Vector Word 16) (n : Fin 17) (r : Reg) : (s.setStack k n).getV r = s.getV r := rfl

/-! ## setDt -/

@[simp] theorem State.setDt_v (b : Byte) : (s.setDt b).v = s.v := rfl
@[simp] theorem State.setDt_i (b : Byte) : (s.setDt b).i = s.i := rfl
@[simp] theorem State.setDt_pc (b : Byte) : (s.setDt b).pc = s.pc := rfl
@[simp] theorem State.setDt_stack (b : Byte) : (s.setDt b).stack = s.stack := rfl
@[simp] theorem State.setDt_sp (b : Byte) : (s.setDt b).sp = s.sp := rfl
@[simp] theorem State.setDt_dt (b : Byte) : (s.setDt b).dt = b := rfl
@[simp] theorem State.setDt_st (b : Byte) : (s.setDt b).st = s.st := rfl
@[simp] theorem State.setDt_fb (b : Byte) : (s.setDt b).fb = s.fb := rfl
@[simp] theorem State.setDt_mem (b : Byte) : (s.setDt b).mem = s.mem := rfl
@[simp] theorem State.setDt_q (b : Byte) : (s.setDt b).q = s.q := rfl
@[simp] theorem State.setDt_keymap (b : Byte) : (s.setDt b).keymap = s.keymap := rfl
@[simp] theorem State.setDt_status (b : Byte) : (s.setDt b).status = s.status := rfl
@[simp] theorem State.setDt_record (b : Byte) : (s.setDt b).record = s.record := rfl
@[simp] theorem State.setDt_host (b : Byte) : (s.setDt b).host = s.host := rfl
@[simp] theorem State.setDt_getV (b : Byte) (r : Reg) : (s.setDt b).getV r = s.getV r := rfl

/-! ## setSt -/

@[simp] theorem State.setSt_v (b : Byte) : (s.setSt b).v = s.v := rfl
@[simp] theorem State.setSt_i (b : Byte) : (s.setSt b).i = s.i := rfl
@[simp] theorem State.setSt_pc (b : Byte) : (s.setSt b).pc = s.pc := rfl
@[simp] theorem State.setSt_stack (b : Byte) : (s.setSt b).stack = s.stack := rfl
@[simp] theorem State.setSt_sp (b : Byte) : (s.setSt b).sp = s.sp := rfl
@[simp] theorem State.setSt_dt (b : Byte) : (s.setSt b).dt = s.dt := rfl
@[simp] theorem State.setSt_st (b : Byte) : (s.setSt b).st = b := rfl
@[simp] theorem State.setSt_fb (b : Byte) : (s.setSt b).fb = s.fb := rfl
@[simp] theorem State.setSt_mem (b : Byte) : (s.setSt b).mem = s.mem := rfl
@[simp] theorem State.setSt_q (b : Byte) : (s.setSt b).q = s.q := rfl
@[simp] theorem State.setSt_keymap (b : Byte) : (s.setSt b).keymap = s.keymap := rfl
@[simp] theorem State.setSt_status (b : Byte) : (s.setSt b).status = s.status := rfl
@[simp] theorem State.setSt_record (b : Byte) : (s.setSt b).record = s.record := rfl
@[simp] theorem State.setSt_host (b : Byte) : (s.setSt b).host = s.host := rfl
@[simp] theorem State.setSt_getV (b : Byte) (r : Reg) : (s.setSt b).getV r = s.getV r := rfl

/-! ## setFb -/

@[simp] theorem State.setFb_v (f : FrameBuffer) : (s.setFb f).v = s.v := rfl
@[simp] theorem State.setFb_i (f : FrameBuffer) : (s.setFb f).i = s.i := rfl
@[simp] theorem State.setFb_pc (f : FrameBuffer) : (s.setFb f).pc = s.pc := rfl
@[simp] theorem State.setFb_stack (f : FrameBuffer) : (s.setFb f).stack = s.stack := rfl
@[simp] theorem State.setFb_sp (f : FrameBuffer) : (s.setFb f).sp = s.sp := rfl
@[simp] theorem State.setFb_dt (f : FrameBuffer) : (s.setFb f).dt = s.dt := rfl
@[simp] theorem State.setFb_st (f : FrameBuffer) : (s.setFb f).st = s.st := rfl
@[simp] theorem State.setFb_fb (f : FrameBuffer) : (s.setFb f).fb = f := rfl
@[simp] theorem State.setFb_mem (f : FrameBuffer) : (s.setFb f).mem = s.mem := rfl
@[simp] theorem State.setFb_q (f : FrameBuffer) : (s.setFb f).q = s.q := rfl
@[simp] theorem State.setFb_keymap (f : FrameBuffer) : (s.setFb f).keymap = s.keymap := rfl
@[simp] theorem State.setFb_status (f : FrameBuffer) : (s.setFb f).status = s.status := rfl
@[simp] theorem State.setFb_record (f : FrameBuffer) : (s.setFb f).record = s.record := rfl
@[simp] theorem State.setFb_host (f : FrameBuffer) : (s.setFb f).host = s.host := rfl
@[simp] theorem State.setFb_getV (f : FrameBuffer) (r : Reg) : (s.setFb f).getV r = s.getV r := rfl

/-! ## setMem -/

@[simp] theorem State.setMem_v (m : Memory) : (s.setMem m).v = s.v := rfl
@[simp] theorem State.setMem_i (m : Memory) : (s.setMem m).i = s.i := rfl
@[simp] theorem State.setMem_pc (m : Memory) : (s.setMem m).pc = s.pc := rfl
@[simp] theorem State.setMem_stack (m : Memory) : (s.setMem m).stack = s.stack := rfl
@[simp] theorem State.setMem_sp (m : Memory) : (s.setMem m).sp = s.sp := rfl
@[simp] theorem State.setMem_dt (m : Memory) : (s.setMem m).dt = s.dt := rfl
@[simp] theorem State.setMem_st (m : Memory) : (s.setMem m).st = s.st := rfl
@[simp] theorem State.setMem_fb (m : Memory) : (s.setMem m).fb = s.fb := rfl
@[simp] theorem State.setMem_mem (m : Memory) : (s.setMem m).mem = m := rfl
@[simp] theorem State.setMem_q (m : Memory) : (s.setMem m).q = s.q := rfl
@[simp] theorem State.setMem_keymap (m : Memory) : (s.setMem m).keymap = s.keymap := rfl
@[simp] theorem State.setMem_status (m : Memory) : (s.setMem m).status = s.status := rfl
@[simp] theorem State.setMem_record (m : Memory) : (s.setMem m).record = s.record := rfl
@[simp] theorem State.setMem_host (m : Memory) : (s.setMem m).host = s.host := rfl
@[simp] theorem State.setMem_getV (m : Memory) (r : Reg) : (s.setMem m).getV r = s.getV r := rfl

/-! ## setQ -/

@[simp] theorem State.setQ_v (p : Quirks) : (s.setQ p).v = s.v := rfl
@[simp] theorem State.setQ_i (p : Quirks) : (s.setQ p).i = s.i := rfl
@[simp] theorem State.setQ_pc (p : Quirks) : (s.setQ p).pc = s.pc := rfl
@[simp] theorem State.setQ_stack (p : Quirks) : (s.setQ p).stack = s.stack := rfl
@[simp] theorem State.setQ_sp (p : Quirks) : (s.setQ p).sp = s.sp := rfl
@[simp] theorem State.setQ_dt (p : Quirks) : (s.setQ p).dt = s.dt := rfl
@[simp] theorem State.setQ_st (p : Quirks) : (s.setQ p).st = s.st := rfl
@[simp] theorem State.setQ_fb (p : Quirks) : (s.setQ p).fb = s.fb := rfl
@[simp] theorem State.setQ_mem (p : Quirks) : (s.setQ p).mem = s.mem := rfl
@[simp] theorem State.setQ_q (p : Quirks) : (s.setQ p).q = p := rfl
@[simp] theorem State.setQ_keymap (p : Quirks) : (s.setQ p).keymap = s.keymap := rfl
@[simp] theorem State.setQ_status (p : Quirks) : (s.setQ p).status = s.status := rfl
@[simp] theorem State.setQ_record (p : Quirks) : (s.setQ p).record = s.record := rfl
@[simp] theorem State.setQ_host (p : Quirks) : (s.setQ p).host = s.host := rfl
@[simp] theorem State.setQ_getV (p : Quirks) (r : Reg) : (s.setQ p).getV r = s.getV r := rfl

/-! ## setHost -/

@[simp] theorem State.setHost_v (h : HostInputs) : (s.setHost h).v = s.v := rfl
@[simp] theorem State.setHost_i (h : HostInputs) : (s.setHost h).i = s.i := rfl
@[simp] theorem State.setHost_pc (h : HostInputs) : (s.setHost h).pc = s.pc := rfl
@[simp] theorem State.setHost_stack (h : HostInputs) : (s.setHost h).stack = s.stack := rfl
@[simp] theorem State.setHost_sp (h : HostInputs) : (s.setHost h).sp = s.sp := rfl
@[simp] theorem State.setHost_dt (h : HostInputs) : (s.setHost h).dt = s.dt := rfl
@[simp] theorem State.setHost_st (h : HostInputs) : (s.setHost h).st = s.st := rfl
@[simp] theorem State.setHost_fb (h : HostInputs) : (s.setHost h).fb = s.fb := rfl
@[simp] theorem State.setHost_mem (h : HostInputs) : (s.setHost h).mem = s.mem := rfl
@[simp] theorem State.setHost_q (h : HostInputs) : (s.setHost h).q = s.q := rfl
@[simp] theorem State.setHost_keymap (h : HostInputs) : (s.setHost h).keymap = s.keymap := rfl
@[simp] theorem State.setHost_status (h : HostInputs) : (s.setHost h).status = s.status := rfl
@[simp] theorem State.setHost_record (h : HostInputs) : (s.setHost h).record = s.record := rfl
@[simp] theorem State.setHost_host (h : HostInputs) : (s.setHost h).host = h := rfl
@[simp] theorem State.setHost_getV (h : HostInputs) (r : Reg) : (s.setHost h).getV r = s.getV r := rfl

/-! ## setStatus -/

@[simp] theorem State.setStatus_v (c : Status) (f : FaultRecord) : (s.setStatus c f).v = s.v := rfl
@[simp] theorem State.setStatus_i (c : Status) (f : FaultRecord) : (s.setStatus c f).i = s.i := rfl
@[simp] theorem State.setStatus_pc (c : Status) (f : FaultRecord) : (s.setStatus c f).pc = s.pc := rfl
@[simp] theorem State.setStatus_stack (c : Status) (f : FaultRecord) : (s.setStatus c f).stack = s.stack := rfl
@[simp] theorem State.setStatus_sp (c : Status) (f : FaultRecord) : (s.setStatus c f).sp = s.sp := rfl
@[simp] theorem State.setStatus_dt (c : Status) (f : FaultRecord) : (s.setStatus c f).dt = s.dt := rfl
@[simp] theorem State.setStatus_st (c : Status) (f : FaultRecord) : (s.setStatus c f).st = s.st := rfl
@[simp] theorem State.setStatus_fb (c : Status) (f : FaultRecord) : (s.setStatus c f).fb = s.fb := rfl
@[simp] theorem State.setStatus_mem (c : Status) (f : FaultRecord) : (s.setStatus c f).mem = s.mem := rfl
@[simp] theorem State.setStatus_q (c : Status) (f : FaultRecord) : (s.setStatus c f).q = s.q := rfl
@[simp] theorem State.setStatus_keymap (c : Status) (f : FaultRecord) : (s.setStatus c f).keymap = s.keymap := rfl
@[simp] theorem State.setStatus_status (c : Status) (f : FaultRecord) : (s.setStatus c f).status = c := rfl
@[simp] theorem State.setStatus_record (c : Status) (f : FaultRecord) : (s.setStatus c f).record = f := rfl
@[simp] theorem State.setStatus_host (c : Status) (f : FaultRecord) : (s.setStatus c f).host = s.host := rfl
@[simp] theorem State.setStatus_getV (c : Status) (f : FaultRecord) (r : Reg) : (s.setStatus c f).getV r = s.getV r := rfl

/-! ## Registers -/

/-- A register reads as what was last written to it, every other as before. -/
theorem State.getV_setV (x y : Reg) (b : Byte) : (s.setV x b).getV y = if y = x then b else s.getV y := by
  simp [State.setV, State.getV, Vector.getElem_set, BitVec.toNat_inj, eq_comm]

@[simp] theorem State.getV_setV_self (x : Reg) (b : Byte) : (s.setV x b).getV x = b := by
  simp [State.getV_setV]

theorem State.getV_setV_of_ne {x y : Reg} (h : y ≠ x) (b : Byte) : (s.setV x b).getV y = s.getV y := by
  simp [State.getV_setV, h]

/-- Registers are equal vectors exactly when every register reads the same. -/
theorem State.v_eq_iff_getV (t : State) : t.v = s.v ↔ ∀ r : Reg, t.getV r = s.getV r := by
  refine ⟨fun h r => by simp [State.getV, h], fun h => ?_⟩
  refine Vector.ext fun k hk => ?_
  have := h (BitVec.ofNat 4 k)
  simpa [State.getV, Nat.mod_eq_of_lt hk] using this

end Sys2Proof.Machine
end

