-- ==== Sys2Proof/Laws/Ops.lean ====
section
/-! SUPPORT. What each shared operation of Ops.lean, Operands.lean and Flags.lean can do, said once: the
fields it leaves alone, and the value of those it writes. -/

namespace Sys2Proof.Machine

variable (s : State)

/-! ## skipIf -/

@[simp] theorem State.skipIf_v (c : Bool) : (s.skipIf c).v = s.v := by unfold State.skipIf; split <;> rfl
@[simp] theorem State.skipIf_i (c : Bool) : (s.skipIf c).i = s.i := by unfold State.skipIf; split <;> rfl
@[simp] theorem State.skipIf_stack (c : Bool) : (s.skipIf c).stack = s.stack := by unfold State.skipIf; split <;> rfl
@[simp] theorem State.skipIf_sp (c : Bool) : (s.skipIf c).sp = s.sp := by unfold State.skipIf; split <;> rfl
@[simp] theorem State.skipIf_dt (c : Bool) : (s.skipIf c).dt = s.dt := by unfold State.skipIf; split <;> rfl
@[simp] theorem State.skipIf_st (c : Bool) : (s.skipIf c).st = s.st := by unfold State.skipIf; split <;> rfl
@[simp] theorem State.skipIf_fb (c : Bool) : (s.skipIf c).fb = s.fb := by unfold State.skipIf; split <;> rfl
@[simp] theorem State.skipIf_mem (c : Bool) : (s.skipIf c).mem = s.mem := by unfold State.skipIf; split <;> rfl
@[simp] theorem State.skipIf_q (c : Bool) : (s.skipIf c).q = s.q := by unfold State.skipIf; split <;> rfl
@[simp] theorem State.skipIf_keymap (c : Bool) : (s.skipIf c).keymap = s.keymap := by unfold State.skipIf; split <;> rfl
@[simp] theorem State.skipIf_status (c : Bool) : (s.skipIf c).status = s.status := by unfold State.skipIf; split <;> rfl
@[simp] theorem State.skipIf_record (c : Bool) : (s.skipIf c).record = s.record := by unfold State.skipIf; split <;> rfl
@[simp] theorem State.skipIf_host (c : Bool) : (s.skipIf c).host = s.host := by unfold State.skipIf; split <;> rfl
@[simp] theorem State.skipIf_getV (c : Bool) (r : Reg) : (s.skipIf c).getV r = s.getV r := by unfold State.skipIf; split <;> rfl

/-! ## advance -/

@[simp] theorem State.advance_v : (s.advance).v = s.v := rfl
@[simp] theorem State.advance_i : (s.advance).i = s.i := rfl
@[simp] theorem State.advance_stack : (s.advance).stack = s.stack := rfl
@[simp] theorem State.advance_sp : (s.advance).sp = s.sp := rfl
@[simp] theorem State.advance_dt : (s.advance).dt = s.dt := rfl
@[simp] theorem State.advance_st : (s.advance).st = s.st := rfl
@[simp] theorem State.advance_fb : (s.advance).fb = s.fb := rfl
@[simp] theorem State.advance_mem : (s.advance).mem = s.mem := rfl
@[simp] theorem State.advance_q : (s.advance).q = s.q := rfl
@[simp] theorem State.advance_keymap : (s.advance).keymap = s.keymap := rfl
@[simp] theorem State.advance_status : (s.advance).status = s.status := rfl
@[simp] theorem State.advance_record : (s.advance).record = s.record := rfl
@[simp] theorem State.advance_host : (s.advance).host = s.host := rfl
@[simp] theorem State.advance_getV (r : Reg) : (s.advance).getV r = s.getV r := rfl

/-! ## timerStep -/

@[simp] theorem State.timerStep_v : (s.timerStep).v = s.v := rfl
@[simp] theorem State.timerStep_i : (s.timerStep).i = s.i := rfl
@[simp] theorem State.timerStep_pc : (s.timerStep).pc = s.pc := rfl
@[simp] theorem State.timerStep_stack : (s.timerStep).stack = s.stack := rfl
@[simp] theorem State.timerStep_sp : (s.timerStep).sp = s.sp := rfl
@[simp] theorem State.timerStep_fb : (s.timerStep).fb = s.fb := rfl
@[simp] theorem State.timerStep_mem : (s.timerStep).mem = s.mem := rfl
@[simp] theorem State.timerStep_q : (s.timerStep).q = s.q := rfl
@[simp] theorem State.timerStep_keymap : (s.timerStep).keymap = s.keymap := rfl
@[simp] theorem State.timerStep_status : (s.timerStep).status = s.status := rfl
@[simp] theorem State.timerStep_record : (s.timerStep).record = s.record := rfl
@[simp] theorem State.timerStep_host : (s.timerStep).host = s.host := rfl
@[simp] theorem State.timerStep_getV (r : Reg) : (s.timerStep).getV r = s.getV r := rfl

/-! ## raiseAt -/

@[simp] theorem State.raiseAt_v (p : Word) (c : FaultCause) (n : Word) : (s.raiseAt p c n).v = s.v := rfl
@[simp] theorem State.raiseAt_i (p : Word) (c : FaultCause) (n : Word) : (s.raiseAt p c n).i = s.i := rfl
@[simp] theorem State.raiseAt_pc (p : Word) (c : FaultCause) (n : Word) : (s.raiseAt p c n).pc = s.pc := rfl
@[simp] theorem State.raiseAt_stack (p : Word) (c : FaultCause) (n : Word) : (s.raiseAt p c n).stack = s.stack := rfl
@[simp] theorem State.raiseAt_sp (p : Word) (c : FaultCause) (n : Word) : (s.raiseAt p c n).sp = s.sp := rfl
@[simp] theorem State.raiseAt_dt (p : Word) (c : FaultCause) (n : Word) : (s.raiseAt p c n).dt = s.dt := rfl
@[simp] theorem State.raiseAt_st (p : Word) (c : FaultCause) (n : Word) : (s.raiseAt p c n).st = s.st := rfl
@[simp] theorem State.raiseAt_fb (p : Word) (c : FaultCause) (n : Word) : (s.raiseAt p c n).fb = s.fb := rfl
@[simp] theorem State.raiseAt_mem (p : Word) (c : FaultCause) (n : Word) : (s.raiseAt p c n).mem = s.mem := rfl
@[simp] theorem State.raiseAt_q (p : Word) (c : FaultCause) (n : Word) : (s.raiseAt p c n).q = s.q := rfl
@[simp] theorem State.raiseAt_keymap (p : Word) (c : FaultCause) (n : Word) : (s.raiseAt p c n).keymap = s.keymap := rfl
@[simp] theorem State.raiseAt_host (p : Word) (c : FaultCause) (n : Word) : (s.raiseAt p c n).host = s.host := rfl
@[simp] theorem State.raiseAt_getV (p : Word) (c : FaultCause) (n : Word) (r : Reg) : (s.raiseAt p c n).getV r = s.getV r := rfl

/-! ## raise -/

@[simp] theorem State.raise_v (c : FaultCause) (n : Word) : (s.raise c n).v = s.v := rfl
@[simp] theorem State.raise_i (c : FaultCause) (n : Word) : (s.raise c n).i = s.i := rfl
@[simp] theorem State.raise_pc (c : FaultCause) (n : Word) : (s.raise c n).pc = s.pc := rfl
@[simp] theorem State.raise_stack (c : FaultCause) (n : Word) : (s.raise c n).stack = s.stack := rfl
@[simp] theorem State.raise_sp (c : FaultCause) (n : Word) : (s.raise c n).sp = s.sp := rfl
@[simp] theorem State.raise_dt (c : FaultCause) (n : Word) : (s.raise c n).dt = s.dt := rfl
@[simp] theorem State.raise_st (c : FaultCause) (n : Word) : (s.raise c n).st = s.st := rfl
@[simp] theorem State.raise_fb (c : FaultCause) (n : Word) : (s.raise c n).fb = s.fb := rfl
@[simp] theorem State.raise_mem (c : FaultCause) (n : Word) : (s.raise c n).mem = s.mem := rfl
@[simp] theorem State.raise_q (c : FaultCause) (n : Word) : (s.raise c n).q = s.q := rfl
@[simp] theorem State.raise_keymap (c : FaultCause) (n : Word) : (s.raise c n).keymap = s.keymap := rfl
@[simp] theorem State.raise_host (c : FaultCause) (n : Word) : (s.raise c n).host = s.host := rfl
@[simp] theorem State.raise_getV (c : FaultCause) (n : Word) (r : Reg) : (s.raise c n).getV r = s.getV r := rfl

/-! ## raiseRange -/

@[simp] theorem State.raiseRange_v : (s.raiseRange).v = s.v := rfl
@[simp] theorem State.raiseRange_i : (s.raiseRange).i = s.i := rfl
@[simp] theorem State.raiseRange_pc : (s.raiseRange).pc = s.pc := rfl
@[simp] theorem State.raiseRange_stack : (s.raiseRange).stack = s.stack := rfl
@[simp] theorem State.raiseRange_sp : (s.raiseRange).sp = s.sp := rfl
@[simp] theorem State.raiseRange_dt : (s.raiseRange).dt = s.dt := rfl
@[simp] theorem State.raiseRange_st : (s.raiseRange).st = s.st := rfl
@[simp] theorem State.raiseRange_fb : (s.raiseRange).fb = s.fb := rfl
@[simp] theorem State.raiseRange_mem : (s.raiseRange).mem = s.mem := rfl
@[simp] theorem State.raiseRange_q : (s.raiseRange).q = s.q := rfl
@[simp] theorem State.raiseRange_keymap : (s.raiseRange).keymap = s.keymap := rfl
@[simp] theorem State.raiseRange_host : (s.raiseRange).host = s.host := rfl
@[simp] theorem State.raiseRange_getV (r : Reg) : (s.raiseRange).getV r = s.getV r := rfl

/-! ## raiseFetch -/

@[simp] theorem State.raiseFetch_v : (s.raiseFetch).v = s.v := rfl
@[simp] theorem State.raiseFetch_i : (s.raiseFetch).i = s.i := rfl
@[simp] theorem State.raiseFetch_pc : (s.raiseFetch).pc = s.pc := rfl
@[simp] theorem State.raiseFetch_stack : (s.raiseFetch).stack = s.stack := rfl
@[simp] theorem State.raiseFetch_sp : (s.raiseFetch).sp = s.sp := rfl
@[simp] theorem State.raiseFetch_dt : (s.raiseFetch).dt = s.dt := rfl
@[simp] theorem State.raiseFetch_st : (s.raiseFetch).st = s.st := rfl
@[simp] theorem State.raiseFetch_fb : (s.raiseFetch).fb = s.fb := rfl
@[simp] theorem State.raiseFetch_mem : (s.raiseFetch).mem = s.mem := rfl
@[simp] theorem State.raiseFetch_q : (s.raiseFetch).q = s.q := rfl
@[simp] theorem State.raiseFetch_keymap : (s.raiseFetch).keymap = s.keymap := rfl
@[simp] theorem State.raiseFetch_host : (s.raiseFetch).host = s.host := rfl
@[simp] theorem State.raiseFetch_getV (r : Reg) : (s.raiseFetch).getV r = s.getV r := rfl

/-! ## raiseUnknown -/

@[simp] theorem State.raiseUnknown_v (w : Word) : (s.raiseUnknown w).v = s.v := rfl
@[simp] theorem State.raiseUnknown_i (w : Word) : (s.raiseUnknown w).i = s.i := rfl
@[simp] theorem State.raiseUnknown_pc (w : Word) : (s.raiseUnknown w).pc = s.pc := rfl
@[simp] theorem State.raiseUnknown_stack (w : Word) : (s.raiseUnknown w).stack = s.stack := rfl
@[simp] theorem State.raiseUnknown_sp (w : Word) : (s.raiseUnknown w).sp = s.sp := rfl
@[simp] theorem State.raiseUnknown_dt (w : Word) : (s.raiseUnknown w).dt = s.dt := rfl
@[simp] theorem State.raiseUnknown_st (w : Word) : (s.raiseUnknown w).st = s.st := rfl
@[simp] theorem State.raiseUnknown_fb (w : Word) : (s.raiseUnknown w).fb = s.fb := rfl
@[simp] theorem State.raiseUnknown_mem (w : Word) : (s.raiseUnknown w).mem = s.mem := rfl
@[simp] theorem State.raiseUnknown_q (w : Word) : (s.raiseUnknown w).q = s.q := rfl
@[simp] theorem State.raiseUnknown_keymap (w : Word) : (s.raiseUnknown w).keymap = s.keymap := rfl
@[simp] theorem State.raiseUnknown_host (w : Word) : (s.raiseUnknown w).host = s.host := rfl
@[simp] theorem State.raiseUnknown_getV (w : Word) (r : Reg) : (s.raiseUnknown w).getV r = s.getV r := rfl

/-! ## halt -/

@[simp] theorem State.halt_v : (s.halt).v = s.v := rfl
@[simp] theorem State.halt_i : (s.halt).i = s.i := rfl
@[simp] theorem State.halt_pc : (s.halt).pc = s.pc := rfl
@[simp] theorem State.halt_stack : (s.halt).stack = s.stack := rfl
@[simp] theorem State.halt_sp : (s.halt).sp = s.sp := rfl
@[simp] theorem State.halt_dt : (s.halt).dt = s.dt := rfl
@[simp] theorem State.halt_st : (s.halt).st = s.st := rfl
@[simp] theorem State.halt_fb : (s.halt).fb = s.fb := rfl
@[simp] theorem State.halt_mem : (s.halt).mem = s.mem := rfl
@[simp] theorem State.halt_q : (s.halt).q = s.q := rfl
@[simp] theorem State.halt_keymap : (s.halt).keymap = s.keymap := rfl
@[simp] theorem State.halt_record : (s.halt).record = s.record := rfl
@[simp] theorem State.halt_host : (s.halt).host = s.host := rfl
@[simp] theorem State.halt_getV (r : Reg) : (s.halt).getV r = s.getV r := rfl

/-! ## afterDraw -/

@[simp] theorem State.afterDraw_v : (s.afterDraw).v = s.v := rfl
@[simp] theorem State.afterDraw_i : (s.afterDraw).i = s.i := rfl
@[simp] theorem State.afterDraw_pc : (s.afterDraw).pc = s.pc := rfl
@[simp] theorem State.afterDraw_stack : (s.afterDraw).stack = s.stack := rfl
@[simp] theorem State.afterDraw_sp : (s.afterDraw).sp = s.sp := rfl
@[simp] theorem State.afterDraw_dt : (s.afterDraw).dt = s.dt := rfl
@[simp] theorem State.afterDraw_st : (s.afterDraw).st = s.st := rfl
@[simp] theorem State.afterDraw_fb : (s.afterDraw).fb = s.fb := rfl
@[simp] theorem State.afterDraw_mem : (s.afterDraw).mem = s.mem := rfl
@[simp] theorem State.afterDraw_q : (s.afterDraw).q = s.q := rfl
@[simp] theorem State.afterDraw_keymap : (s.afterDraw).keymap = s.keymap := rfl
@[simp] theorem State.afterDraw_status : (s.afterDraw).status = s.status := rfl
@[simp] theorem State.afterDraw_record : (s.afterDraw).record = s.record := rfl
@[simp] theorem State.afterDraw_getV (r : Reg) : (s.afterDraw).getV r = s.getV r := rfl

/-! ## afterSym -/

@[simp] theorem State.afterSym_v : (s.afterSym).v = s.v := rfl
@[simp] theorem State.afterSym_i : (s.afterSym).i = s.i := rfl
@[simp] theorem State.afterSym_pc : (s.afterSym).pc = s.pc := rfl
@[simp] theorem State.afterSym_stack : (s.afterSym).stack = s.stack := rfl
@[simp] theorem State.afterSym_sp : (s.afterSym).sp = s.sp := rfl
@[simp] theorem State.afterSym_dt : (s.afterSym).dt = s.dt := rfl
@[simp] theorem State.afterSym_st : (s.afterSym).st = s.st := rfl
@[simp] theorem State.afterSym_fb : (s.afterSym).fb = s.fb := rfl
@[simp] theorem State.afterSym_mem : (s.afterSym).mem = s.mem := rfl
@[simp] theorem State.afterSym_q : (s.afterSym).q = s.q := rfl
@[simp] theorem State.afterSym_keymap : (s.afterSym).keymap = s.keymap := rfl
@[simp] theorem State.afterSym_status : (s.afterSym).status = s.status := rfl
@[simp] theorem State.afterSym_record : (s.afterSym).record = s.record := rfl
@[simp] theorem State.afterSym_getV (r : Reg) : (s.afterSym).getV r = s.getV r := rfl

/-! ## setVWithFlag -/

@[simp] theorem State.setVWithFlag_i (x : Reg) (b f : Byte) : (s.setVWithFlag x b f).i = s.i := rfl
@[simp] theorem State.setVWithFlag_pc (x : Reg) (b f : Byte) : (s.setVWithFlag x b f).pc = s.pc := rfl
@[simp] theorem State.setVWithFlag_stack (x : Reg) (b f : Byte) : (s.setVWithFlag x b f).stack = s.stack := rfl
@[simp] theorem State.setVWithFlag_sp (x : Reg) (b f : Byte) : (s.setVWithFlag x b f).sp = s.sp := rfl
@[simp] theorem State.setVWithFlag_dt (x : Reg) (b f : Byte) : (s.setVWithFlag x b f).dt = s.dt := rfl
@[simp] theorem State.setVWithFlag_st (x : Reg) (b f : Byte) : (s.setVWithFlag x b f).st = s.st := rfl
@[simp] theorem State.setVWithFlag_fb (x : Reg) (b f : Byte) : (s.setVWithFlag x b f).fb = s.fb := rfl
@[simp] theorem State.setVWithFlag_mem (x : Reg) (b f : Byte) : (s.setVWithFlag x b f).mem = s.mem := rfl
@[simp] theorem State.setVWithFlag_q (x : Reg) (b f : Byte) : (s.setVWithFlag x b f).q = s.q := rfl
@[simp] theorem State.setVWithFlag_keymap (x : Reg) (b f : Byte) : (s.setVWithFlag x b f).keymap = s.keymap := rfl
@[simp] theorem State.setVWithFlag_status (x : Reg) (b f : Byte) : (s.setVWithFlag x b f).status = s.status := rfl
@[simp] theorem State.setVWithFlag_record (x : Reg) (b f : Byte) : (s.setVWithFlag x b f).record = s.record := rfl
@[simp] theorem State.setVWithFlag_host (x : Reg) (b f : Byte) : (s.setVWithFlag x b f).host = s.host := rfl

/-! ## blockAdvance -/

@[simp] theorem State.blockAdvance_v : (s.blockAdvance).v = s.v := by unfold State.blockAdvance; split <;> rfl
@[simp] theorem State.blockAdvance_pc : (s.blockAdvance).pc = s.pc := by unfold State.blockAdvance; split <;> rfl
@[simp] theorem State.blockAdvance_stack : (s.blockAdvance).stack = s.stack := by unfold State.blockAdvance; split <;> rfl
@[simp] theorem State.blockAdvance_sp : (s.blockAdvance).sp = s.sp := by unfold State.blockAdvance; split <;> rfl
@[simp] theorem State.blockAdvance_dt : (s.blockAdvance).dt = s.dt := by unfold State.blockAdvance; split <;> rfl
@[simp] theorem State.blockAdvance_st : (s.blockAdvance).st = s.st := by unfold State.blockAdvance; split <;> rfl
@[simp] theorem State.blockAdvance_fb : (s.blockAdvance).fb = s.fb := by unfold State.blockAdvance; split <;> rfl
@[simp] theorem State.blockAdvance_mem : (s.blockAdvance).mem = s.mem := by unfold State.blockAdvance; split <;> rfl
@[simp] theorem State.blockAdvance_q : (s.blockAdvance).q = s.q := by unfold State.blockAdvance; split <;> rfl
@[simp] theorem State.blockAdvance_keymap : (s.blockAdvance).keymap = s.keymap := by unfold State.blockAdvance; split <;> rfl
@[simp] theorem State.blockAdvance_status : (s.blockAdvance).status = s.status := by unfold State.blockAdvance; split <;> rfl
@[simp] theorem State.blockAdvance_record : (s.blockAdvance).record = s.record := by unfold State.blockAdvance; split <;> rfl
@[simp] theorem State.blockAdvance_host : (s.blockAdvance).host = s.host := by unfold State.blockAdvance; split <;> rfl
@[simp] theorem State.blockAdvance_getV (r : Reg) : (s.blockAdvance).getV r = s.getV r := by unfold State.blockAdvance; split <;> rfl

/-! ## storeAtI -/

@[simp] theorem State.storeAtI_v (l : List Byte) : (s.storeAtI l).v = s.v := rfl
@[simp] theorem State.storeAtI_i (l : List Byte) : (s.storeAtI l).i = s.i := rfl
@[simp] theorem State.storeAtI_pc (l : List Byte) : (s.storeAtI l).pc = s.pc := rfl
@[simp] theorem State.storeAtI_stack (l : List Byte) : (s.storeAtI l).stack = s.stack := rfl
@[simp] theorem State.storeAtI_sp (l : List Byte) : (s.storeAtI l).sp = s.sp := rfl
@[simp] theorem State.storeAtI_dt (l : List Byte) : (s.storeAtI l).dt = s.dt := rfl
@[simp] theorem State.storeAtI_st (l : List Byte) : (s.storeAtI l).st = s.st := rfl
@[simp] theorem State.storeAtI_fb (l : List Byte) : (s.storeAtI l).fb = s.fb := rfl
@[simp] theorem State.storeAtI_q (l : List Byte) : (s.storeAtI l).q = s.q := rfl
@[simp] theorem State.storeAtI_keymap (l : List Byte) : (s.storeAtI l).keymap = s.keymap := rfl
@[simp] theorem State.storeAtI_status (l : List Byte) : (s.storeAtI l).status = s.status := rfl
@[simp] theorem State.storeAtI_record (l : List Byte) : (s.storeAtI l).record = s.record := rfl
@[simp] theorem State.storeAtI_host (l : List Byte) : (s.storeAtI l).host = s.host := rfl
@[simp] theorem State.storeAtI_getV (l : List Byte) (r : Reg) : (s.storeAtI l).getV r = s.getV r := rfl

/-! ## What they write -/

@[simp] theorem State.skipIf_pc (c : Bool) : (s.skipIf c).pc = bif c then s.pc + 2#16 else s.pc := by
  cases c <;> rfl

@[simp] theorem State.advance_pc : s.advance.pc = s.pc + 2#16 := rfl


/-- Holding undoes the advance of the fetch, and nothing else was done. -/
@[simp] theorem State.advance_pc0 : s.advance.pc0 = s.pc := by simp [State.pc0]

@[simp] theorem State.timerStep_dt : s.timerStep.dt = timerDown s.dt := rfl
@[simp] theorem State.timerStep_st : s.timerStep.st = timerDown s.st := rfl

/-- A timer's step is the saturating decrement. -/
theorem timerDown_toNat (t : Byte) : (timerDown t).toNat = t.toNat - 1 := by
  unfold timerDown
  split
  · next h => simp [h]
  · next h =>
    have : t.toNat ≠ 0 := fun hz => h (BitVec.eq_of_toNat_eq (by simpa using hz))
    have := t.isLt
    simp [BitVec.toNat_sub]
    omega

@[simp] theorem State.raiseAt_status (p : Word) (c : FaultCause) (n : Word) :
    (s.raiseAt p c n).status = .faulted := rfl
@[simp] theorem State.raiseAt_record (p : Word) (c : FaultCause) (n : Word) :
    (s.raiseAt p c n).record = { cause := c, info := n, pc := p } := rfl
@[simp] theorem State.raise_status (c : FaultCause) (n : Word) : (s.raise c n).status = .faulted := rfl
@[simp] theorem State.raise_record (c : FaultCause) (n : Word) :
    (s.raise c n).record = { cause := c, info := n, pc := s.pc0 } := rfl
@[simp] theorem State.raiseRange_status : s.raiseRange.status = .faulted := rfl
@[simp] theorem State.raiseRange_record :
    s.raiseRange.record = { cause := .memoryOutOfRange, info := firstOutside s.i, pc := s.pc0 } := rfl
@[simp] theorem State.raiseFetch_status : s.raiseFetch.status = .faulted := rfl
@[simp] theorem State.raiseFetch_record :
    s.raiseFetch.record = { cause := .fetchOutOfRange, info := s.pc, pc := s.pc } := rfl
@[simp] theorem State.raiseUnknown_status (w : Word) : (s.raiseUnknown w).status = .faulted := rfl
@[simp] theorem State.raiseUnknown_record (w : Word) :
    (s.raiseUnknown w).record = { cause := .unknownOpcode, info := w, pc := s.pc0 } := rfl
@[simp] theorem State.halt_status : s.halt.status = .halted := rfl

@[simp] theorem State.afterDraw_host :
    s.afterDraw.host = { s.host with rndFeed := s.host.rndFeed.tail, draws := s.host.draws + 1 } := rfl
@[simp] theorem State.afterSym_host : s.afterSym.host = { s.host with syms := s.host.syms.tail } := rfl

@[simp] theorem State.blockAdvance_i :
    s.blockAdvance.i = bif s.q.blockInc then s.i + 16#16 else s.i := by
  unfold State.blockAdvance; cases s.q.blockInc <;> rfl

@[simp] theorem State.storeAtI_mem (l : List Byte) : (s.storeAtI l).mem = s.mem.writeBytes s.i.toNat l := rfl

/-- The flag stays in `VF` whatever the destination; the result stays in any other destination (R22). -/
theorem State.getV_setVWithFlag (x r : Reg) (b f : Byte) :
    (s.setVWithFlag x b f).getV r = if r = regF then f else if r = x then b else s.getV r := by
  simp [State.setVWithFlag, State.getV_setV]

@[simp] theorem State.getV_setVWithFlag_regF (x : Reg) (b f : Byte) :
    (s.setVWithFlag x b f).getV regF = f := by simp [State.getV_setVWithFlag]

/-- A flag is 0 or 1. -/
theorem flagByte_toNat (b : Bool) : (flagByte b).toNat = if b then 1 else 0 := by cases b <;> rfl

/-- The push: what it answers and when it does (R101). -/
theorem State.pushPc_eq_some {t : State} (h : s.pushPc = some t) :
    ∃ hk : s.sp.val < 16, t = s.setStack (s.stack.set s.sp.val s.pc hk) ⟨s.sp.val + 1, by omega⟩ := by
  unfold State.pushPc at h
  split at h
  · next hk => exact ⟨hk, by simpa using h.symm⟩
  · simp at h

theorem State.pushPc_of_lt (hk : s.sp.val < 16) :
    s.pushPc = some (s.setStack (s.stack.set s.sp.val s.pc hk) ⟨s.sp.val + 1, by omega⟩) := by
  simp [State.pushPc, hk]

theorem State.pushPc_eq_none (h : s.sp.val = 16) : s.pushPc = none := by simp [State.pushPc, h]

/-- The pop: what it answers and when it does (R102). -/
theorem State.popPc_eq_some {t : State} (h : s.popPc = some t) :
    ∃ hk : 0 < s.sp.val, t = (s.setStack s.stack ⟨s.sp.val - 1, by omega⟩).setPc
      (s.stack[s.sp.val - 1]'(by omega)) := by
  unfold State.popPc at h
  split at h
  · next hk => exact ⟨hk, by simpa using h.symm⟩
  · simp at h

theorem State.popPc_of_pos (hk : 0 < s.sp.val) :
    s.popPc = some ((s.setStack s.stack ⟨s.sp.val - 1, by omega⟩).setPc
      (s.stack[s.sp.val - 1]'(by omega))) := by
  simp [State.popPc, hk]

theorem State.popPc_eq_none (h : s.sp.val = 0) : s.popPc = none := by simp [State.popPc, h]

/-! ## The key table -/

/-- The table answers none exactly on the symbols outside its domain (R8). -/
theorem keyOf_eq_none {m : KeyMap} {sym : Byte} : keyOf m sym = none ↔ ∀ k, (sym, k) ∉ m := by
  induction m with
  | nil => simp [keyOf]
  | cons c m ih =>
    obtain ⟨b, j⟩ := c
    unfold keyOf at *
    by_cases h : sym = b
    · subst h
      simp only [List.lookup_cons, beq_self_eq_true]
      exact ⟨fun h => (by cases h), fun h => absurd (List.mem_cons_self ..) (h j)⟩
    · have : (sym == b) = false := by simpa using h
      simp only [List.lookup_cons, this, ih]
      simp [h]

/-- A symbol listed once has the key it is listed with (R8, R142). -/
theorem keyOf_eq_some {m : KeyMap} {sym : Byte} {k : Key} (hn : (m.map Prod.fst).Nodup) (h : (sym, k) ∈ m) :
    keyOf m sym = some k := by
  induction m with
  | nil => simp at h
  | cons c m ih =>
    obtain ⟨b, j⟩ := c
    unfold keyOf at *
    rw [List.map_cons, List.nodup_cons] at hn
    rcases List.mem_cons.1 h with h | h
    · cases h
      simp
    · have hb : ¬ sym = b := fun e => hn.1 (List.mem_map.2 ⟨(sym, k), h, e⟩)
      have : (sym == b) = false := by simpa using hb
      simp only [List.lookup_cons, this]
      exact ih hn.2 h

/-! ## Ranges -/

/-- The range check in arithmetic (R56). -/
theorem inMemory_iff (a : Word) (m : Nat) : inMemory a m = true ↔ m = 0 ∨ a.toNat + m ≤ 4096 := by
  simp [inMemory]

/-- The reported address is the larger of `I` and 4096 (R56). -/
theorem firstOutside_toNat (a : Word) : (firstOutside a).toNat = max a.toNat 4096 := by
  have := a.isLt
  simp only [firstOutside, BitVec.toNat_ofNat]
  omega

/-! ## The end of a cycle -/

/-- A cycle that halted or faulted ends where its execute phase did (R95). -/
theorem endCycle_of_stopped {t : State} (h : t.status ≠ .running) : endCycle t = t := if_neg h

/-- A cycle that ended done steps the timers and takes the host's next key states (R94, R47). -/
theorem endCycle_of_running {t : State} (h : t.status = .running) :
    endCycle t = t.timerStep.setHost t.host.nextKeys := if_pos h

@[simp] theorem endCycle_v (t : State) : (endCycle t).v = t.v := by
  unfold endCycle; split <;> rfl
@[simp] theorem endCycle_i (t : State) : (endCycle t).i = t.i := by
  unfold endCycle; split <;> rfl
@[simp] theorem endCycle_pc (t : State) : (endCycle t).pc = t.pc := by
  unfold endCycle; split <;> rfl
@[simp] theorem endCycle_stack (t : State) : (endCycle t).stack = t.stack := by
  unfold endCycle; split <;> rfl
@[simp] theorem endCycle_sp (t : State) : (endCycle t).sp = t.sp := by
  unfold endCycle; split <;> rfl
@[simp] theorem endCycle_fb (t : State) : (endCycle t).fb = t.fb := by
  unfold endCycle; split <;> rfl
@[simp] theorem endCycle_mem (t : State) : (endCycle t).mem = t.mem := by
  unfold endCycle; split <;> rfl
@[simp] theorem endCycle_q (t : State) : (endCycle t).q = t.q := by
  unfold endCycle; split <;> rfl
@[simp] theorem endCycle_keymap (t : State) : (endCycle t).keymap = t.keymap := by
  unfold endCycle; split <;> rfl
@[simp] theorem endCycle_status (t : State) : (endCycle t).status = t.status := by
  unfold endCycle; split <;> rfl
@[simp] theorem endCycle_record (t : State) : (endCycle t).record = t.record := by
  unfold endCycle; split <;> rfl

end Sys2Proof.Machine
end

