-- ==== Sys2Proof/Laws/Display.lean ====
section
/-! SUPPORT. The laws of the display surface: a pixel after an inversion, after one plotted bit and after
the scan of one sprite row. -/

namespace Sys2Proof.Machine

/-- Outside the grid every pixel is dark. -/
theorem pixelAt_outside (fb : FrameBuffer) {x y : Nat} (h : 64 ≤ x ∨ 32 ≤ y) : pixelAt fb x y = false := by
  unfold pixelAt
  split
  · exact BitVec.getLsbD_of_ge _ _ (by omega)
  · rfl

/-- A blank surface has no lit pixel. -/
@[simp] theorem pixelAt_blank (x y : Nat) : pixelAt (Vector.replicate 32 0#64) x y = false := by
  unfold pixelAt
  split <;> simp

/-- Surfaces are equal exactly when all their pixels are. -/
theorem fb_eq_of_pixels {f g : FrameBuffer} (h : ∀ x y, x < 64 → y < 32 → pixelAt f x y = pixelAt g x y) :
    f = g := by
  refine Vector.ext fun y hy => BitVec.eq_of_getLsbD_eq fun x hx => ?_
  simpa [pixelAt, hy] using h x y hx hy

/-- An inversion changes exactly its own pixel. -/
theorem pixelAt_flipPixel (fb : FrameBuffer) {x y : Nat} (hx : x < 64) (hy : y < 32) (px py : Nat) :
    pixelAt (flipPixel fb x y) px py = (pixelAt fb px py ^^ (decide (px = x) && decide (py = y))) := by
  unfold flipPixel
  rw [dif_pos hy]
  by_cases hpy : py < 32
  · by_cases hpx : px < 64
    · by_cases h : py = y
      · subst h
        simp [pixelAt, hpy, BitVec.getLsbD_twoPow, eq_comm, hx]
      · have : ¬ y = py := fun e => h e.symm
        simp [pixelAt, hpy, h, this]
    · rw [pixelAt_outside _ (.inl (by omega)), pixelAt_outside _ (.inl (by omega))]
      simp; omega
  · rw [pixelAt_outside _ (.inr (by omega)), pixelAt_outside _ (.inr (by omega))]
    simp; omega

/-- The sprite bit of column `c` of a row byte, clipped at the right edge. -/
def rowBit (b : Byte) (ox px : Nat) : Bool := decide (ox ≤ px) && decide (px ≤ ox + 7) && b.getLsbD (7 - (px - ox))

/-- One plotted bit: its own pixel is inverted, and a lit pixel under it sets the flag. -/
theorem plot_spec (cv : Canvas) {x y : Nat} (hx : x < 64) (hy : y < 32) :
    (∀ px py, pixelAt (cv.plot x y).fb px py = (pixelAt cv.fb px py ^^ (decide (px = x) && decide (py = y)))) ∧
    (cv.plot x y).hit = (cv.hit || pixelAt cv.fb x y) :=
  ⟨fun px py => pixelAt_flipPixel cv.fb hx hy px py, rfl⟩

/-- The scan of columns `k` to 7 of one sprite row, at a row of the grid: pixels of that row are XORed with
the sprite bits from column `k` on, and the flag records a lit pixel under a sprite bit. -/
theorem scanRow_spec (b : Byte) {ox y : Nat} (hy : y < 32) (n : Nat) : ∀ (k : Nat) (cv : Canvas), k + n = 8 →
    (∀ px py, px < 64 → pixelAt (Canvas.scanRow b ox y (List.range' k n) cv).fb px py =
      (pixelAt cv.fb px py ^^ (decide (py = y) && decide (ox + k ≤ px) && rowBit b ox px))) ∧
    ((Canvas.scanRow b ox y (List.range' k n) cv).hit = true ↔
      cv.hit = true ∨ ∃ px, px < 64 ∧ ox + k ≤ px ∧ rowBit b ox px = true ∧ pixelAt cv.fb px y = true) := by
  induction n with
  | zero =>
    intro k cv hk
    have hr : ∀ px, ox + k ≤ px → rowBit b ox px = false := by
      intro px hp
      simp [rowBit]; omega
    refine ⟨fun px py _ => ?_, ?_⟩
    · by_cases hp : ox + k ≤ px <;> simp [Canvas.scanRow, hp, hr]
    · simp only [List.range'_zero, Canvas.scanRow]
      refine ⟨.inl, fun h => h.elim id ?_⟩
      rintro ⟨px, _, hp, h, _⟩
      simp [hr px hp] at h
  | succ n ih =>
    intro k cv hk
    rw [List.range'_succ, Canvas.scanRow]
    split
    · next hout =>
      refine ⟨fun px py hpx => ?_, ?_⟩
      · have : ¬ ox + k ≤ px := by omega
        simp [this]
      · refine ⟨.inl, fun h => h.elim id ?_⟩
        rintro ⟨px, hpx, hp, _⟩
        omega
    · next hin =>
      have hx : ox + k < 64 := by omega
      have hself : rowBit b ox (ox + k) = b.getLsbD (7 - k) := by
        have h1 : ox + k ≤ ox + 7 := by omega
        simp [rowBit, h1]
      obtain ⟨hpix, hhit⟩ := ih (k + 1) (if b.getLsbD (7 - k) then cv.plot (ox + k) y else cv) (by omega)
      have hplot := plot_spec cv hx hy
      refine ⟨fun px py hpx => ?_, ?_⟩
      · rw [hpix px py hpx]
        by_cases hp : px = ox + k
        · subst hp
          have h1 : ¬ ox + (k + 1) ≤ ox + k := by omega
          by_cases hb : b.getLsbD (7 - k) = true
          · simp only [hb, if_true, hplot.1, hself, h1]
            simp
          · simp only [hb, hself, h1]
            simp
        · have h1 : (ox + (k + 1) ≤ px) ↔ (ox + k ≤ px) := by omega
          by_cases hb : b.getLsbD (7 - k) = true
          · simp only [hb, if_true, hplot.1, h1, hp]
            simp
          · simp only [hb, h1]
            simp
      · rw [hhit]
        by_cases hb : b.getLsbD (7 - k) = true
        · simp only [hb, if_true, hplot.1, hplot.2, Bool.or_eq_true]
          constructor
          · rintro ((h | h) | ⟨px, hpx, hp, hbit, hlit⟩)
            · exact .inl h
            · exact .inr ⟨ox + k, hx, Nat.le_refl _, by rw [hself, hb], h⟩
            · have : ¬ px = ox + k := by omega
              exact .inr ⟨px, hpx, by omega, hbit, by simpa [this] using hlit⟩
          · rintro (h | ⟨px, hpx, hp, hbit, hlit⟩)
            · exact .inl (.inl h)
            · by_cases he : px = ox + k
              · subst he; exact .inl (.inr hlit)
              · exact .inr ⟨px, hpx, by omega, hbit, by simpa [he] using hlit⟩
        · simp only [hb]
          constructor
          · rintro (h | ⟨px, hpx, hp, hbit, hlit⟩)
            · exact .inl h
            · exact .inr ⟨px, hpx, by omega, hbit, hlit⟩
          · rintro (h | ⟨px, hpx, hp, hbit, hlit⟩)
            · exact .inl h
            · by_cases he : px = ox + k
              · subst he; rw [hself] at hbit; exact absurd hbit hb
              · exact .inr ⟨px, hpx, by omega, hbit, hlit⟩

/-- The eight columns of a sprite row are the columns from 0. -/
theorem range_eight : List.range 8 = List.range' 0 8 := by decide

/-- The scan reads the bytes at `I` and nothing else of the state. -/
theorem scanRows_congr {s s' : State} (h : ∀ k, s'.readAtI k = s.readAtI k) (ox oy : Nat) (rs : List Nat)
    (cv : Canvas) : Canvas.scanRows s' ox oy rs cv = Canvas.scanRows s ox oy rs cv := by
  induction rs generalizing cv with
  | nil => rfl
  | cons r rs ih => rw [Canvas.scanRows, Canvas.scanRows, h r, ih]

end Sys2Proof.Machine
end

