-- ==== Sys2Proof/Laws/Memory.lean ====
section
/-! SUPPORT. The laws of memory: a read after a write, and that every memory operation keeps the
canonical form. -/

namespace Sys2Proof.Machine

/-! ## Reading -/

@[simp] theorem Memory.read_nil (a : Nat) : Memory.read [] a = unlisted a := rfl

theorem Memory.read_enter (m : Memory) (a b : Nat) (v : Byte) :
    (Memory.enter m a v).read b = if b = a then v else m.read b := by
  induction m with
  | nil => simp [Memory.enter, Memory.read]
  | cons c m ih =>
    obtain ⟨k, x⟩ := c
    simp only [Memory.enter]
    split
    · simp [Memory.read]
    · split
      · next h => subst h; by_cases hb : b = a <;> simp [Memory.read, hb]
      · next h =>
        by_cases hk : b = k
        · subst hk; simp [Memory.read]; omega
        · simp [Memory.read, hk, ih]

theorem Memory.read_drop (m : Memory) (a b : Nat) :
    (m.drop a).read b = if b = a then unlisted a else m.read b := by
  induction m with
  | nil => by_cases hb : b = a <;> simp [Memory.drop, Memory.read, hb]
  | cons c m ih =>
    obtain ⟨k, x⟩ := c
    by_cases hk : k = a
    · subst hk
      have : Memory.drop ((k, x) :: m) k = Memory.drop m k := by simp [Memory.drop]
      rw [this, ih]
      by_cases hb : b = k <;> simp [Memory.read, hb]
    · have : Memory.drop ((k, x) :: m) a = (k, x) :: Memory.drop m a := by simp [Memory.drop, hk]
      rw [this]
      by_cases hb : b = k
      · subst hb; simp [Memory.read, hk]
      · simp [Memory.read, hb, ih]

/-- A write inside memory changes exactly the byte written (R54). -/
theorem Memory.read_write (m : Memory) {a : Nat} (ha : a < 4096) (b : Nat) (v : Byte) :
    (m.write a v).read b = if b = a then v else m.read b := by
  unfold Memory.write
  rw [if_pos ha]
  split
  · next h => rw [Memory.read_drop]; by_cases hb : b = a <;> simp [hb, h]
  · exact Memory.read_enter m a b v

/-- There is no byte above 4095 to write. -/
theorem Memory.write_outside (m : Memory) {a : Nat} (ha : 4096 ≤ a) (v : Byte) : m.write a v = m := by
  unfold Memory.write
  rw [if_neg (by simp only [Config.memSize]; omega)]

/-- What a byte reads as after a run of writes inside memory. -/
theorem Memory.read_writeBytes (l : List Byte) (m : Memory) {a : Nat} (h : a + l.length ≤ 4096) (b : Nat) :
    (m.writeBytes a l).read b = if a ≤ b ∧ b < a + l.length then l.getD (b - a) 0 else m.read b := by
  induction l generalizing m a with
  | nil =>
    have : ¬ (a ≤ b ∧ b < a) := by omega
    simp [Memory.writeBytes, this]
  | cons x l ih =>
    simp only [List.length_cons] at h
    rw [Memory.writeBytes, ih (m.write a x) (by omega), Memory.read_write m (by omega)]
    by_cases hb : b = a
    · subst hb
      simp
    · by_cases hr : a + 1 ≤ b ∧ b < a + 1 + l.length
      · have h2 : a ≤ b ∧ b < a + (x :: l).length := by simp only [List.length_cons]; omega
        have h3 : b - a = (b - (a + 1)) + 1 := by omega
        rw [if_pos hr, if_pos h2, h3]
        simp
      · have h2 : ¬ (a ≤ b ∧ b < a + (x :: l).length) := by simp only [List.length_cons]; omega
        rw [if_neg hr, if_neg h2, if_neg hb]

/-- Bytes outside a run of writes read as before. -/
theorem Memory.read_writeBytes_outside (l : List Byte) (m : Memory) {a b : Nat} (h : b < a ∨ a + l.length ≤ b) :
    (m.writeBytes a l).read b = m.read b := by
  induction l generalizing m a with
  | nil => rfl
  | cons x l ih =>
    simp only [List.length_cons] at h
    rw [Memory.writeBytes, ih (m.write a x) (by omega)]
    by_cases ha : a < 4096
    · rw [Memory.read_write m ha, if_neg (by omega)]
    · rw [Memory.write_outside m (by omega)]

/-! ## The canonical form -/

theorem Memory.wf_nil : Memory.wf [] := by simp [Memory.wf]

theorem Memory.mem_enter {m : Memory} {a : Nat} {v : Byte} {c : Host.Cell} (h : c ∈ Memory.enter m a v) :
    c = (a, v) ∨ c ∈ m := by
  induction m with
  | nil => simpa [Memory.enter] using h
  | cons d m ih =>
    obtain ⟨k, x⟩ := d
    simp only [Memory.enter] at h
    split at h
    · simpa using h
    · split at h
      · rcases List.mem_cons.1 h with h | h
        · exact .inl h
        · exact .inr (List.mem_cons_of_mem _ h)
      · rcases List.mem_cons.1 h with h | h
        · exact .inr (h ▸ List.mem_cons_self ..)
        · exact (ih h).imp id (List.mem_cons_of_mem _)

theorem Memory.enter_sorted {m : Memory} (h : m.Pairwise (fun c d => c.1 < d.1)) (a : Nat) (v : Byte) :
    (Memory.enter m a v).Pairwise (fun c d => c.1 < d.1) := by
  induction m with
  | nil => simp [Memory.enter]
  | cons d m ih =>
    obtain ⟨k, x⟩ := d
    obtain ⟨hd, hm⟩ := List.pairwise_cons.1 h
    simp only [Memory.enter]
    split
    · next hk =>
      refine List.pairwise_cons.2 ⟨fun c hc => ?_, h⟩
      rcases List.mem_cons.1 hc with rfl | hc
      · exact hk
      · exact Nat.lt_trans hk (hd c hc)
    · split
      · next hk => subst hk; exact List.pairwise_cons.2 ⟨hd, hm⟩
      · refine List.pairwise_cons.2 ⟨fun c hc => ?_, ih hm⟩
        rcases Memory.mem_enter hc with rfl | hc
        · show k < a; omega
        · exact hd c hc

/-- A write keeps the canonical form. -/
theorem Memory.wf_write {m : Memory} (h : m.wf) (a : Nat) (v : Byte) : (m.write a v).wf := by
  unfold Memory.write
  split
  · next ha =>
    split
    · exact ⟨h.1.sublist List.filter_sublist, fun c hc => h.2 c (List.mem_of_mem_filter hc)⟩
    · next hv =>
      refine ⟨Memory.enter_sorted h.1 a v, fun c hc => ?_⟩
      rcases Memory.mem_enter hc with rfl | hc
      · exact ⟨ha, hv⟩
      · exact h.2 c hc
  · exact h

/-- A run of writes keeps the canonical form. -/
theorem Memory.wf_writeBytes {m : Memory} (h : m.wf) (a : Nat) (l : List Byte) : (m.writeBytes a l).wf := by
  induction l generalizing m a with
  | nil => exact h
  | cons x l ih => exact ih (Memory.wf_write h a x) (a + 1)

/-- Writing what the addresses read as anyway lists nothing: so the default font leaves memory empty. -/
theorem writeBytes_unlisted (bs : List Byte) : ∀ a : Nat,
    (∀ k (h : k < bs.length), bs[k] = unlisted (a + k)) → Memory.writeBytes [] a bs = [] := by
  induction bs with
  | nil => intro a _; rfl
  | cons b bs ih =>
    intro a h
    have hb : b = unlisted a := h 0 (by simp)
    have hw : Memory.write [] a b = [] := by simp [Memory.write, Memory.drop, hb]
    rw [Memory.writeBytes, hw]
    refine ih (a + 1) fun k hk => ?_
    have := h (k + 1) (by simpa using hk)
    rwa [List.getElem_cons_succ, ← Nat.add_assoc, Nat.add_right_comm] at this

end Sys2Proof.Machine
end

