-- ==== Sys2Proof/Laws/PerInstr.lean ====
section
/-! SUPPORT. The family RowBits: the word an instruction encodes to has the fixed bits of its row of
spec/opcode_table.json (spec/30_encoding.md R74), one lemma per constructor. -/

namespace Sys2Proof.Laws.RowBits

/-- `w & mask = match` for the row of the instruction and the word it encodes to. -/
def Statement (i : Instr) : Prop := encode i &&& (rowOf i).1 = (rowOf i).2

theorem halt : Statement (.halt) := rfl
theorem cls : Statement (.cls) := rfl
theorem ret : Statement (.ret) := rfl
theorem jp (nnn : Addr) : Statement (.jp nnn) := packNnn_and (by decide) _
theorem call (nnn : Addr) : Statement (.call nnn) := packNnn_and (by decide) _
theorem seImm (x : Reg) (kk : Byte) : Statement (.seImm x kk) := packXkk_and (by decide) _ _
theorem sneImm (x : Reg) (kk : Byte) : Statement (.sneImm x kk) := packXkk_and (by decide) _ _
theorem seReg (x : Reg) (y : Reg) : Statement (.seReg x y) := (packXyn_and_low (by decide) _ _ _).trans rfl
theorem ldImm (x : Reg) (kk : Byte) : Statement (.ldImm x kk) := packXkk_and (by decide) _ _
theorem addImm (x : Reg) (kk : Byte) : Statement (.addImm x kk) := packXkk_and (by decide) _ _
theorem ldReg (x : Reg) (y : Reg) : Statement (.ldReg x y) := (packXyn_and_low (by decide) _ _ _).trans rfl
theorem orReg (x : Reg) (y : Reg) : Statement (.orReg x y) := (packXyn_and_low (by decide) _ _ _).trans rfl
theorem andReg (x : Reg) (y : Reg) : Statement (.andReg x y) := (packXyn_and_low (by decide) _ _ _).trans rfl
theorem xorReg (x : Reg) (y : Reg) : Statement (.xorReg x y) := (packXyn_and_low (by decide) _ _ _).trans rfl
theorem addReg (x : Reg) (y : Reg) : Statement (.addReg x y) := (packXyn_and_low (by decide) _ _ _).trans rfl
theorem sub (x : Reg) (y : Reg) : Statement (.sub x y) := (packXyn_and_low (by decide) _ _ _).trans rfl
theorem shr (x : Reg) (y : Reg) : Statement (.shr x y) := (packXyn_and_low (by decide) _ _ _).trans rfl
theorem subn (x : Reg) (y : Reg) : Statement (.subn x y) := (packXyn_and_low (by decide) _ _ _).trans rfl
theorem shl (x : Reg) (y : Reg) : Statement (.shl x y) := (packXyn_and_low (by decide) _ _ _).trans rfl
theorem sneReg (x : Reg) (y : Reg) : Statement (.sneReg x y) := (packXyn_and_low (by decide) _ _ _).trans rfl
theorem ldI (nnn : Addr) : Statement (.ldI nnn) := packNnn_and (by decide) _
theorem jpV0 (nnn : Addr) (x : Reg) : Statement (.jpV0 nnn x) := packNnn_and (by decide) _
theorem rnd (x : Reg) (kk : Byte) : Statement (.rnd x kk) := packXkk_and (by decide) _ _
theorem drw (x : Reg) (y : Reg) (n : Count) : Statement (.drw x y n) := packXyn_and (by decide) _ _ _
theorem skp (x : Reg) : Statement (.skp x) := (packXkk_and_low (by decide) _ _).trans rfl
theorem sknp (x : Reg) : Statement (.sknp x) := (packXkk_and_low (by decide) _ _).trans rfl
theorem ldVxDt (x : Reg) : Statement (.ldVxDt x) := (packXkk_and_low (by decide) _ _).trans rfl
theorem ldVxK (x : Reg) : Statement (.ldVxK x) := (packXkk_and_low (by decide) _ _).trans rfl
theorem ldDtVx (x : Reg) : Statement (.ldDtVx x) := (packXkk_and_low (by decide) _ _).trans rfl
theorem ldStVx (x : Reg) : Statement (.ldStVx x) := (packXkk_and_low (by decide) _ _).trans rfl
theorem addI (x : Reg) : Statement (.addI x) := (packXkk_and_low (by decide) _ _).trans rfl
theorem ldF (x : Reg) : Statement (.ldF x) := (packXkk_and_low (by decide) _ _).trans rfl
theorem ldB (x : Reg) : Statement (.ldB x) := (packXkk_and_low (by decide) _ _).trans rfl
theorem storeRegs (x : Reg) : Statement (.storeRegs x) := (packXkk_and_low (by decide) _ _).trans rfl
theorem loadRegs (x : Reg) : Statement (.loadRegs x) := (packXkk_and_low (by decide) _ _).trans rfl

/-- The statement for every instruction, from the lemmas of its constructors. -/
theorem all (i : Instr) : Statement i := by
  cases i with
  | halt => exact RowBits.halt
  | cls => exact RowBits.cls
  | ret => exact RowBits.ret
  | jp nnn => exact RowBits.jp nnn
  | call nnn => exact RowBits.call nnn
  | seImm x kk => exact RowBits.seImm x kk
  | sneImm x kk => exact RowBits.sneImm x kk
  | seReg x y => exact RowBits.seReg x y
  | ldImm x kk => exact RowBits.ldImm x kk
  | addImm x kk => exact RowBits.addImm x kk
  | ldReg x y => exact RowBits.ldReg x y
  | orReg x y => exact RowBits.orReg x y
  | andReg x y => exact RowBits.andReg x y
  | xorReg x y => exact RowBits.xorReg x y
  | addReg x y => exact RowBits.addReg x y
  | sub x y => exact RowBits.sub x y
  | shr x y => exact RowBits.shr x y
  | subn x y => exact RowBits.subn x y
  | shl x y => exact RowBits.shl x y
  | sneReg x y => exact RowBits.sneReg x y
  | ldI nnn => exact RowBits.ldI nnn
  | jpV0 nnn x => exact RowBits.jpV0 nnn x
  | rnd x kk => exact RowBits.rnd x kk
  | drw x y n => exact RowBits.drw x y n
  | skp x => exact RowBits.skp x
  | sknp x => exact RowBits.sknp x
  | ldVxDt x => exact RowBits.ldVxDt x
  | ldVxK x => exact RowBits.ldVxK x
  | ldDtVx x => exact RowBits.ldDtVx x
  | ldStVx x => exact RowBits.ldStVx x
  | addI x => exact RowBits.addI x
  | ldF x => exact RowBits.ldF x
  | ldB x => exact RowBits.ldB x
  | storeRegs x => exact RowBits.storeRegs x
  | loadRegs x => exact RowBits.loadRegs x

end Sys2Proof.Laws.RowBits
end

