-- ==== Sys2Proof/Laws/Step.lean ====
section
/-! SUPPORT. What a step can do, said once (spec/40_cycle_driver.md R90 to R95): later proofs take a step
apart with step_cases and never unfold it. -/

namespace Sys2Proof.Machine

/-- The execute phase of an instruction answers a next state, a fatal condition being one too (R166), unless
it is a key-wait without a symbol. -/
theorem exec_answers_next {i : Instr} {s : State} (h : waitsForSymbol i s = false) : ∃ t, exec i s = .next t := by
  cases i
  case ldVxK x =>
    cases hs : s.host.syms with
    | nil => simp [waitsForSymbol, hs] at h
    | cons sym rest =>
      simp only [exec, execLdVxK, hs]
      exact ⟨_, rfl⟩
  all_goals exact ⟨_, rfl⟩

/-- A key-wait without a symbol has no step (R45, R142). -/
theorem exec_of_waiting {i : Instr} {s : State} (h : waitsForSymbol i s = true) :
    exec i s = .fault .awaitingSymbol := by
  cases i
  case ldVxK x =>
    have hs : s.host.syms = [] := by simpa [waitsForSymbol] using h
    simp only [exec, execLdVxK, hs]
  all_goals exact absurd h (by simp [waitsForSymbol])

/-- Whether a key-wait waits does not depend on the program counter. -/
@[simp] theorem waitsForSymbol_advance (i : Instr) (s : State) :
    waitsForSymbol i s.advance = waitsForSymbol i s := by
  cases i <;> rfl

theorem step_of_running {s : State} (h : s.status = .running) :
    step s = if s.canFetch then executeWord s.fetchWord s.advance else .next s.raiseFetch := by
  simp [step, h]

/-- The step of a decoded instruction is its execute phase and the end of the cycle. -/
theorem step_decoded {s t : State} {i : Instr} (h : s.status = .running) (hp : s.pc.toNat ≤ 4094)
    (hd : decodeWord s.fetchWord = .ok i) (he : exec i s.advance = .next t) :
    step s = .next (endCycle t) := by
  have : s.canFetch = true := by simpa [State.canFetch] using hp
  simp [step_of_running h, this, executeWord, hd, he]

/-- The step of a key-wait without a symbol: there is none (R45). -/
theorem step_of_waiting {s : State} {i : Instr} (h : s.status = .running) (hp : s.pc.toNat ≤ 4094)
    (hd : decodeWord s.fetchWord = .ok i) (hw : waitsForSymbol i s = true) :
    step s = .fault .awaitingSymbol := by
  have hc : s.canFetch = true := by simpa [State.canFetch] using hp
  have he := exec_of_waiting (i := i) (s := s.advance) (by simpa using hw)
  simp [step_of_running h, hc, executeWord, hd, he]

/-- The step of a word that matches no row. -/
theorem step_unknown {s : State} {e : DecodeError} (h : s.status = .running) (hp : s.pc.toNat ≤ 4094)
    (hd : decodeWord s.fetchWord = .error e) : step s = .next (s.advance.raiseUnknown s.fetchWord) := by
  have : s.canFetch = true := by simpa [State.canFetch] using hp
  simp [step_of_running h, this, executeWord, hd]

/-- The step of a fetch outside memory. -/
theorem step_outside {s : State} (h : s.status = .running) (hp : 4094 < s.pc.toNat) :
    step s = .next s.raiseFetch := by
  have : s.canFetch = false := by simpa [State.canFetch] using hp
  simp [step_of_running h, this]

/-- Everything a step that answers a next state can have done. -/
theorem step_cases {s u : State} (h : step s = .next u) :
    s.status = .running ∧
    ((4094 < s.pc.toNat ∧ u = s.raiseFetch) ∨
     (s.pc.toNat ≤ 4094 ∧ ∃ e, decodeWord s.fetchWord = .error e ∧ u = s.advance.raiseUnknown s.fetchWord) ∨
     (s.pc.toNat ≤ 4094 ∧ ∃ i t, decodeWord s.fetchWord = .ok i ∧ exec i s.advance = .next t ∧
        u = endCycle t)) := by
  have hr : s.status = .running := by
    unfold step at h
    split at h
    · cases h
    · cases h
    · assumption
  refine ⟨hr, ?_⟩
  by_cases hp : 4094 < s.pc.toNat
  · rw [step_outside hr hp] at h
    cases h
    exact .inl ⟨hp, rfl⟩
  · have hp' : s.pc.toNat ≤ 4094 := by omega
    cases hd : decodeWord s.fetchWord with
    | error e =>
      rw [step_unknown hr hp' hd] at h
      cases h
      exact .inr (.inl ⟨hp', e, rfl, rfl⟩)
    | ok i =>
      cases hw : waitsForSymbol i s with
      | true =>
        rw [step_of_waiting hr hp' hd hw] at h
        cases h
      | false =>
        obtain ⟨t, ht⟩ := exec_answers_next (i := i) (s := s.advance) (by simpa using hw)
        rw [step_decoded hr hp' hd ht] at h
        cases h
        exact .inr (.inr ⟨hp', i, t, rfl, ht, rfl⟩)

end Sys2Proof.Machine
end

