-- ==== Sys2Proof/Tests/Slice0.lean ====
section
/-! SUPPORT. The model's own tests: words written out from spec/30_encoding.md, single steps from
spec/95_test_vectors.md (each named by its vector), the checks of WellFormed, and a state that meets the
hypotheses of each obligation. -/

namespace Sys2Proof.Tests

open Sys2Proof Sys2Proof.Machine

/-! ## Helpers -/

/-- The reset state with registers overridden. -/
def withRegs (rs : List (Reg × Byte)) (s : State) : State := rs.foldl (fun t r => t.setV r.1 r.2) s

/-- The reset state with registers overridden and the word `w` at `PC`. -/
def start (w : Nat) (rs : List (Reg × Byte)) : State := (withRegs rs State.reset).withFetchWord 16 w

/-- As `start`, under a profile. -/
def startQ (q : Quirks) (w : Nat) (rs : List (Reg × Byte)) : State := { start w rs with q := q }

/-- As `start`, with `I` and bytes in memory at `I`. -/
def startI (w : Nat) (rs : List (Reg × Byte)) (i : Word) (bytes : List Byte) : State :=
  { start w rs with i := i, mem := (start w rs).mem.writeBytes i.toNat bytes }

/-- Something read off the state one step leaves. -/
def after {α : Type} (s : State) (f : State → α) : Option α :=
  match step s with
  | .next t => some (f t)
  | .fault _ => none
  | .refused _ => none

/-- The profile bound to COSMAC (R7). -/
abbrev cosmac : Quirks := profileOf .cosmac

/-- The profile bound to SUPER (R7). -/
abbrev super : Quirks := profileOf .super

/-- The reset state with some pixels lit. -/
def withLit (ps : List (Nat × Nat)) (s : State) : State :=
  { s with fb := ps.foldl (fun fb p => flipPixel fb p.1 p.2) s.fb }

/-! ## WellFormed -/

/-- The register field of JP V0,nnn is the high nibble of its address (R72). -/
theorem test_wellFormed_jpV0 : (Instr.jpV0 0x300#12 3#4).wellFormed = true := by decide

/-- A register field that is not the high nibble of the address stands for no word: refused. -/
theorem test_illFormed_jpV0 : (Instr.jpV0 0x300#12 4#4).wellFormed = false := by decide

/-! ## Decode: one word of every row (R75 to R79) -/

theorem test_decode_halt : decodeWord 0x0000#16 = .ok .halt := by decide
theorem test_decode_cls : decodeWord 0x00E0#16 = .ok .cls := by decide
theorem test_decode_ret : decodeWord 0x00EE#16 = .ok .ret := by decide
theorem test_decode_jp : decodeWord 0x1234#16 = .ok (.jp 0x234#12) := by decide
theorem test_decode_call : decodeWord 0x2206#16 = .ok (.call 0x206#12) := by decide
theorem test_decode_seImm : decodeWord 0x3A05#16 = .ok (.seImm 10#4 5#8) := by decide
theorem test_decode_sneImm : decodeWord 0x4A05#16 = .ok (.sneImm 10#4 5#8) := by decide
theorem test_decode_seReg : decodeWord 0x5120#16 = .ok (.seReg 1#4 2#4) := by decide
theorem test_decode_ldImm : decodeWord 0x6103#16 = .ok (.ldImm 1#4 3#8) := by decide
theorem test_decode_addImm : decodeWord 0x7A02#16 = .ok (.addImm 10#4 2#8) := by decide
theorem test_decode_ldReg : decodeWord 0x8120#16 = .ok (.ldReg 1#4 2#4) := by decide
theorem test_decode_orReg : decodeWord 0x8121#16 = .ok (.orReg 1#4 2#4) := by decide
theorem test_decode_andReg : decodeWord 0x8122#16 = .ok (.andReg 1#4 2#4) := by decide
theorem test_decode_xorReg : decodeWord 0x8123#16 = .ok (.xorReg 1#4 2#4) := by decide
theorem test_decode_addReg : decodeWord 0x8014#16 = .ok (.addReg 0#4 1#4) := by decide
theorem test_decode_sub : decodeWord 0x8125#16 = .ok (.sub 1#4 2#4) := by decide
theorem test_decode_shr : decodeWord 0x8126#16 = .ok (.shr 1#4 2#4) := by decide
theorem test_decode_subn : decodeWord 0x8127#16 = .ok (.subn 1#4 2#4) := by decide
theorem test_decode_shl : decodeWord 0x812E#16 = .ok (.shl 1#4 2#4) := by decide
theorem test_decode_sneReg : decodeWord 0x9120#16 = .ok (.sneReg 1#4 2#4) := by decide
theorem test_decode_ldI : decodeWord 0xA2F0#16 = .ok (.ldI 0x2F0#12) := by decide
theorem test_decode_jpV0 : decodeWord 0xB300#16 = .ok (.jpV0 0x300#12 3#4) := by decide
theorem test_decode_rnd : decodeWord 0xC10F#16 = .ok (.rnd 1#4 0x0F#8) := by decide
theorem test_decode_drw : decodeWord 0xD015#16 = .ok (.drw 0#4 1#4 5#4) := by decide
theorem test_decode_skp : decodeWord 0xE19E#16 = .ok (.skp 1#4) := by decide
theorem test_decode_sknp : decodeWord 0xE1A1#16 = .ok (.sknp 1#4) := by decide
theorem test_decode_ldVxDt : decodeWord 0xF307#16 = .ok (.ldVxDt 3#4) := by decide
theorem test_decode_ldVxK : decodeWord 0xF50A#16 = .ok (.ldVxK 5#4) := by decide
theorem test_decode_ldDtVx : decodeWord 0xF315#16 = .ok (.ldDtVx 3#4) := by decide
theorem test_decode_ldStVx : decodeWord 0xF318#16 = .ok (.ldStVx 3#4) := by decide
theorem test_decode_addI : decodeWord 0xF21E#16 = .ok (.addI 2#4) := by decide
theorem test_decode_ldF : decodeWord 0xF329#16 = .ok (.ldF 3#4) := by decide
theorem test_decode_ldB : decodeWord 0xF033#16 = .ok (.ldB 0#4) := by decide
theorem test_decode_storeRegs : decodeWord 0xFF55#16 = .ok (.storeRegs 15#4) := by decide
theorem test_decode_loadRegs : decodeWord 0xF065#16 = .ok (.loadRegs 0#4) := by decide

/-- The six words R157 names, and vectors X8 to X10, match no row. -/
theorem test_decode_unknown :
    [0x8128#16, 0x5121#16, 0xE100#16, 0xF1FF#16, 0x0123#16, 0x00E1#16, 0x9001#16, 0x812F#16, 0xFF0B#16].all
      (fun w => decide (decodeWord w = .error (.unknownOpcode w))) = true := by decide

/-- The table's numbering: bit 0 is the least significant bit of the one word (30_encoding.md R71). -/
theorem test_decodeTableWord : decodeTableWord 16 0x8014 = some (.addReg 0#4 1#4) := by decide

theorem test_decodeTableWord_unknown : decodeTableWord 16 0x5121 = none := by decide

/-! ## One step from spec/95_test_vectors.md -/

/-- Vector F1. -/
theorem test_jp_F1 :
    after (start 0x1234 []) (fun t => t.pc) = some 0x234#16 := by decide

/-- Vector F2: an odd target is legal. -/
theorem test_jp_F2 :
    after (start 0x1FFF []) (fun t => t.pc) = some 0xFFF#16 := by decide

/-- Vector F3. -/
theorem test_call_F3 :
    after (start 0x2206 []) (fun t => (t.stack[0], t.sp, t.pc)) = some (0x202#16, 1, 0x206#16) := by decide

/-- Vector F5: the stack is full. -/
theorem test_call_F5 :
    after ((start 0x2300 []).setStack (Vector.replicate 16 0x202#16) 16) (fun t => (t.status, t.record, t.pc, t.sp)) = some (.faulted, ⟨.stackOverflow, 0x2300#16, 0x200#16⟩, 0x202#16, 16) := by decide

/-- Vector F6. -/
theorem test_ret_F6 :
    after (((State.reset.setPc 0x206#16).withFetchWord 16 0x00EE).setStack (Vector.replicate 16 0x202#16) 1) (fun t => (t.sp, t.pc)) = some (0, 0x202#16) := by decide

/-- Vector F7: the stack is empty. -/
theorem test_ret_F7 :
    after (start 0x00EE []) (fun t => (t.status, t.record, t.pc, t.sp)) = some (.faulted, ⟨.stackUnderflow, 0x00EE#16, 0x200#16⟩, 0x202#16, 0) := by decide

/-- Vector F8. -/
theorem test_seImm_F8 :
    after (start 0x3A05 [(10#4, 5#8)]) (fun t => t.pc) = some 0x204#16 := by decide

/-- Vector F9. -/
theorem test_seImm_F9 :
    after (start 0x3A05 [(10#4, 6#8)]) (fun t => t.pc) = some 0x202#16 := by decide

/-- Vector F10. -/
theorem test_sneImm_F10 :
    after (start 0x4A05 [(10#4, 5#8)]) (fun t => t.pc) = some 0x202#16 := by decide

/-- Vector F11. -/
theorem test_sneImm_F11 :
    after (start 0x4A05 [(10#4, 6#8)]) (fun t => t.pc) = some 0x204#16 := by decide

/-- Vector F12. -/
theorem test_seReg_F12 :
    after ((withRegs [(1#4, 7#8), (2#4, 7#8)] (State.reset.setPc 0x300#16)).withFetchWord 16 0x5120) (fun t => t.pc) = some 0x304#16 := by decide

/-- Vector F13. -/
theorem test_seReg_F13 :
    after ((withRegs [(1#4, 7#8), (2#4, 8#8)] (State.reset.setPc 0x300#16)).withFetchWord 16 0x5120) (fun t => t.pc) = some 0x302#16 := by decide

/-- Vector F14. -/
theorem test_sneReg_F14 :
    after ((withRegs [(1#4, 7#8), (2#4, 8#8)] (State.reset.setPc 0x300#16)).withFetchWord 16 0x9120) (fun t => t.pc) = some 0x304#16 := by decide

/-- Vector F17: a register never differs from itself. -/
theorem test_sneReg_F17 :
    after (start 0x9330 [(3#4, 9#8)]) (fun t => t.pc) = some 0x202#16 := by decide

/-- Vector F19. -/
theorem test_fetch_F19 :
    after (State.reset.setPc 0xFFF#16) (fun t => (t.status, t.record, t.pc)) = some (.faulted, ⟨.fetchOutOfRange, 0xFFF#16, 0xFFF#16⟩, 0xFFF#16) := by decide

/-- Vector A1. -/
theorem test_ldImm_A1 :
    after (start 0x6005 []) (fun t => (t.getV 0, t.pc)) = some (5#8, 0x202#16) := by decide

/-- Vector A2: VF as a plain destination. -/
theorem test_ldImm_A2 :
    after (start 0x6FAB []) (fun t => t.getV 15) = some 0xAB#8 := by decide

/-- Vector A3: wraps, no flag. -/
theorem test_addImm_A3 :
    after (start 0x7A02 [(10#4, 0xFF#8), (15#4, 1#8)]) (fun t => (t.getV 10, t.getV 15)) = some (1#8, 1#8) := by decide

/-- Vector A5. -/
theorem test_ldReg_A5 :
    after (start 0x8120 [(2#4, 9#8)]) (fun t => (t.getV 1, t.getV 2)) = some (9#8, 9#8) := by decide

/-- Vector A6. -/
theorem test_orReg_A6 :
    after (start 0x8121 [(1#4, 0x0C#8), (2#4, 0x0A#8), (15#4, 1#8)]) (fun t => (t.getV 1, t.getV 2, t.getV 15)) = some (14#8, 0x0A#8, 1#8) := by decide

/-- Vector A7. -/
theorem test_andReg_A7 :
    after (start 0x8122 [(1#4, 0x0C#8), (2#4, 0x0A#8), (15#4, 1#8)]) (fun t => (t.getV 1, t.getV 2, t.getV 15)) = some (8#8, 0x0A#8, 1#8) := by decide

/-- Vector A8. -/
theorem test_xorReg_A8 :
    after (start 0x8123 [(1#4, 0x0C#8), (2#4, 0x0A#8), (15#4, 1#8)]) (fun t => (t.getV 1, t.getV 2, t.getV 15)) = some (6#8, 0x0A#8, 1#8) := by decide

/-- Vector A11: the largest sum. -/
theorem test_addReg_A11 :
    after (start 0x8124 [(1#4, 0xFF#8), (2#4, 0xFF#8)]) (fun t => (t.getV 1, t.getV 15)) = some (0xFE#8, 1#8) := by decide

/-- Vector A12: the flag stays when VF is the destination. -/
theorem test_addReg_A12 :
    after (start 0x8F14 [(15#4, 0xF0#8), (1#4, 0x20#8)]) (fun t => t.getV 15) = some 1#8 := by decide

/-- Vector A15: borrow. -/
theorem test_sub_A15 :
    after (start 0x8125 [(1#4, 0x10#8), (2#4, 0x20#8), (15#4, 1#8)]) (fun t => (t.getV 1, t.getV 15)) = some (0xF0#8, 0#8) := by decide

/-- Vector A17: equal is no borrow. -/
theorem test_sub_A17 :
    after (start 0x8125 [(1#4, 0x33#8), (2#4, 0x33#8)]) (fun t => (t.getV 1, t.getV 15)) = some (0#8, 1#8) := by decide

/-- Vector A19. -/
theorem test_subn_A19 :
    after (start 0x8127 [(1#4, 0x10#8), (2#4, 0x20#8)]) (fun t => (t.getV 1, t.getV 15)) = some (0x10#8, 1#8) := by decide

/-- Vector A20: borrow. -/
theorem test_subn_A20 :
    after (start 0x8127 [(1#4, 0x20#8), (2#4, 0x10#8), (15#4, 1#8)]) (fun t => (t.getV 1, t.getV 15)) = some (0xF0#8, 0#8) := by decide

/-- Vector A22, shift_copy = 1. -/
theorem test_shr_A22_copy :
    after (startQ cosmac 0x8126 [(1#4, 5#8), (2#4, 8#8)]) (fun t => (t.getV 1, t.getV 2, t.getV 15)) = some (4#8, 8#8, 0#8) := by decide

/-- Vector A24, shift_copy = 0. -/
theorem test_shr_A24_inPlace :
    after (startQ super 0x8F26 [(15#4, 3#8), (2#4, 4#8)]) (fun t => t.getV 15) = some 1#8 := by decide

/-- Vector A23, shift_copy = 0. -/
theorem test_shl_A23_inPlace :
    after (startQ super 0x812E [(1#4, 0x81#8), (2#4, 0x40#8)]) (fun t => (t.getV 1, t.getV 15)) = some (2#8, 1#8) := by decide

/-- Vector A25, shift_copy = 1: the old VF is shifted. -/
theorem test_shl_A25_copy :
    after (startQ cosmac 0x81FE [(1#4, 1#8), (15#4, 0x80#8)]) (fun t => (t.getV 1, t.getV 15)) = some (0#8, 1#8) := by decide

/-- Vector J1, jump_vx = 0. -/
theorem test_jpV0_J1_v0 :
    after (startQ cosmac 0xB300 [(0#4, 4#8), (3#4, 0x10#8)]) (fun t => t.pc) = some 0x304#16 := by decide

/-- Vector J1, jump_vx = 1. -/
theorem test_jpV0_J1_vx :
    after (startQ super 0xB300 [(0#4, 4#8), (3#4, 0x10#8)]) (fun t => t.pc) = some 0x310#16 := by decide

/-- Vector N1. -/
theorem test_rnd_N1 :
    after ((start 0xC10F []).setHost { HostInputs.idle with rndFeed := [0xA7#8] }) (fun t => (t.getV 1, t.host.rndFeed)) = some (7#8, []) := by decide

/-- Vector N4: VF as a plain destination. -/
theorem test_rnd_N4 :
    after ((start 0xCFF0 []).setHost { HostInputs.idle with rndFeed := [0xAB#8] }) (fun t => t.getV 15) = some 0xA0#8 := by decide

/-- Vector M1. -/
theorem test_ldI_M1 :
    after (start 0xA2F0 []) (fun t => (t.i, t.pc)) = some (0x2F0#16, 0x202#16) := by decide

/-- Vector M3, addi_vf = 1. -/
theorem test_addI_M3_flag :
    after ((startQ super 0xF21E [(2#4, 3#8), (15#4, 7#8)]).setI 0xFFE#16) (fun t => (t.i, t.getV 15)) = some (0x1001#16, 1#8) := by decide

/-- Vector M6, addi_vf = 0: wraps. -/
theorem test_addI_M6_noFlag :
    after ((startQ cosmac 0xF21E [(2#4, 1#8), (15#4, 7#8)]).setI 0xFFFF#16) (fun t => (t.i, t.getV 15)) = some (0#16, 7#8) := by decide

/-- Vector M8. -/
theorem test_ldF_M8 :
    after (start 0xF329 [(3#4, 0x0B#8)]) (fun t => t.i) = some 0x37#16 := by decide

/-- Vector M9: the high nibble is ignored. -/
theorem test_ldF_M9 :
    after (start 0xF329 [(3#4, 0x1A#8)]) (fun t => t.i) = some 0x32#16 := by decide

/-- Vector M11. -/
theorem test_ldB_M11 :
    after ((start 0xF033 [(0#4, 205#8)]).setI 0x300#16) (fun t => (t.mem.read 0x300, t.mem.read 0x301, t.mem.read 0x302, t.i)) = some (2#8, 0#8, 5#8, 0x300#16) := by decide

/-- Vector M16: beyond memory. -/
theorem test_ldB_M16 :
    after ((start 0xF033 [(0#4, 123#8)]).setI 0xFFE#16) (fun t => (t.status, t.record, t.pc, t.mem.read 0xFFE)) = some (.faulted, ⟨.memoryOutOfRange, 0x1000#16, 0x200#16⟩, 0x202#16, 0#8) := by decide

/-- Vector M21, block_inc = 1: the last legal address. -/
theorem test_storeRegs_M21 :
    after ((startQ cosmac 0xF055 [(0#4, 0xAA#8), (15#4, 0xBB#8)]).setI 0xFF0#16) (fun t => (t.mem.read 0xFF0, t.mem.read 0xFFF, t.i)) = some (0xAA#8, 0xBB#8, 0x1000#16) := by decide

/-- Vector M19, block_inc = 0: the field makes no difference. -/
theorem test_storeRegs_M19 :
    after ((startQ super 0xF155 [(2#4, 3#8), (15#4, 16#8)]).setI 0x300#16) (fun t => (t.mem.read 0x302, t.mem.read 0x30F, t.i)) = some (3#8, 16#8, 0x300#16) := by decide

/-- Vector M20, block_inc = 1: all 16 registers. -/
theorem test_loadRegs_M20 :
    after (startI 0xF065 [] 0x300#16 [16, 17, 18, 19, 20, 21, 22, 23, 24, 25, 26, 27, 28, 29, 30, 31]) (fun t => (t.getV 0, t.getV 1, t.getV 15, t.i)) = some (0x10#8, 0x11#8, 0x1F#8, 0x310#16) := by decide

/-- Vector M23: beyond memory. -/
theorem test_loadRegs_M23 :
    after ((start 0xF065 [(0#4, 0xAA#8)]).setI 0xFF1#16) (fun t => (t.status, t.record, t.getV 0, t.i)) = some (.faulted, ⟨.memoryOutOfRange, 0x1000#16, 0x200#16⟩, 0xAA#8, 0xFF1#16) := by decide

/-- Vector K1. -/
theorem test_skp_K1 :
    after ((start 0xE19E [(1#4, 4#8)]).setHost { HostInputs.idle with keys := 0x0010#16 }) (fun t => t.pc) = some 0x204#16 := by decide

/-- Vector K5: 0x13 does not name key 3. -/
theorem test_skp_K5 :
    after ((start 0xE19E [(1#4, 0x13#8)]).setHost { HostInputs.idle with keys := 0x0008#16 }) (fun t => t.pc) = some 0x202#16 := by decide

/-- Vector K3. -/
theorem test_sknp_K3 :
    after ((start 0xE1A1 [(1#4, 4#8)]).setHost { HostInputs.idle with keys := 0x0010#16 }) (fun t => t.pc) = some 0x202#16 := by decide

/-- Vector K8: all keys pressed, no key 255. -/
theorem test_sknp_K8 :
    after ((start 0xE1A1 [(1#4, 255#8)]).setHost { HostInputs.idle with keys := 0xFFFF#16 }) (fun t => t.pc) = some 0x204#16 := by decide

/-- The start of vectors K9 to K12. -/
def keyWait (syms : List Byte) : State :=
  { start 0xF50A [(5#4, 0xEE#8)] with
    dt := 3, keymap := [(0x71#8, 4#4), (0x31#8, 1#4)], host := { HostInputs.idle with syms := syms } }

/-- Vector K9. -/
theorem test_ldVxK_K9 :
    after (keyWait [0x71#8]) (fun t => (t.getV 5, t.dt, t.pc, t.host.syms)) = some (4#8, 2#8, 0x202#16, []) := by decide

/-- Vector K11: an unmapped symbol. -/
theorem test_ldVxK_K11 :
    after (keyWait [0x7A#8]) (fun t => (t.status, t.record, t.getV 5, t.dt, t.pc)) = some (.faulted, ⟨.unmappedKey, 0x7A#16, 0x200#16⟩, 0xEE#8, 3#8, 0x202#16) := by decide

/-- Vector K12: no symbol, no step exists. -/
theorem test_ldVxK_K12 : step (keyWait []) = .fault .awaitingSymbol := rfl

/-- Vector T1. -/
theorem test_ldVxDt_T1 :
    after ((start 0xF307 []).setDt 9#8) (fun t => (t.getV 3, t.dt)) = some (9#8, 8#8) := by decide

/-- Vector T2: saturates at 0. -/
theorem test_ldVxDt_T2 :
    after (start 0xF307 [(3#4, 5#8)]) (fun t => (t.getV 3, t.dt)) = some (0#8, 0#8) := by decide

/-- Vector T3. -/
theorem test_ldDtVx_T3 :
    after (start 0xF315 [(3#4, 5#8)]) (fun t => t.dt) = some 4#8 := by decide

/-- Vector T5. -/
theorem test_ldStVx_T5 :
    after (start 0xF318 [(3#4, 2#8)]) (fun t => t.st) = some 1#8 := by decide

/-- Vector T8: no timer step. -/
theorem test_halt_T8 :
    after (((start 0x0000 []).setDt 5#8).setSt 5#8) (fun t => (t.status, t.dt, t.st, t.pc)) = some (.halted, 5#8, 5#8, 0x202#16) := by decide

/-- Vector X2. -/
theorem test_unknown_X2 :
    after (start 0x8128 []) (fun t => (t.status, t.record, t.pc)) = some (.faulted, ⟨.unknownOpcode, 0x8128#16, 0x200#16⟩, 0x202#16) := by decide

/-- Vector D14. -/
theorem test_cls_D14 :
    after (withLit [(0, 0), (63, 31), (5, 7)] (start 0x00E0 [(15#4, 1#8)])) (fun t => (decide (t.fb = State.reset.fb), t.getV 15)) = some (true, 1#8) := by decide

/-- Vector D2: a collision only where a sprite 1 meets a lit pixel. -/
theorem test_drw_D2 :
    after (withLit [(0, 0), (1, 1)] (start 0xD015 [])) (fun t => (pixelAt t.fb 0 0, pixelAt t.fb 1 1, pixelAt t.fb 3 4, pixelAt t.fb 4 0, t.getV 15)) = some (false, true, true, false, 1#8) := by decide

/-- Vector D7: the origin is read from the old VF. -/
theorem test_drw_D7 :
    after (startI 0xDFF1 [(15#4, 0x45#8)] 0x300#16 [0x80#8]) (fun t => (pixelAt t.fb 5 5, pixelAt t.fb 0 0, t.getV 15)) = some (true, false, 0#8) := by decide

/-! ## The spec's codes (10_state.md R42, 60_exceptions.md R161) -/

theorem test_status_codes :
    [Status.running, .halted, .faulted].map Status.code = [0#2, 1#2, 2#2] := by decide

theorem test_cause_codes :
    [FaultCause.none, .unknownOpcode, .stackOverflow, .stackUnderflow, .unmappedKey, .memoryOutOfRange,
      .fetchOutOfRange].map FaultCause.code = [0#3, 1#3, 2#3, 3#3, 4#3, 5#3, 6#3] := by decide

/-- The tokens' profiles (00_scope.md R7, the spec's decision D2). -/
theorem test_profiles : cosmac = ⟨true, false, false, true⟩ ∧ super = ⟨false, true, true, false⟩ := by decide

/-! ## Each obligation with hypotheses: a state that meets them, at the boundary where there is one -/

/-- The state an instruction's execute phase leaves. -/
def result (i : Instr) (s : State) : State :=
  match exec i s with
  | .next t => t
  | .fault _ => s
  | .refused _ => s

/-- The state a step leaves. -/
def stepped (s : State) : State :=
  match step s with
  | .next t => t
  | .fault _ => s
  | .refused _ => s

/-- The reset state with `PC` at the last address a fetch may start at, and the word `w` there. -/
def last (w : Nat) : State := (State.reset.setPc 4094#16).withFetchWord 16 w

/-- The reset state with `SP` at `sp`. -/
def depth (sp : Fin 17) : State := State.reset.setStack (Vector.replicate 16 0x202#16) sp

/-- The reset state with `I` at `i`. -/
def index (i : Word) : State := State.reset.setI i

/-- The reset state with symbols for the key-waits, `0xFF` being outside its `KEYMAP`. -/
def waiting (syms : List Byte) : State := State.reset.setHost { HostInputs.idle with syms := syms }

theorem witness_DecodeInvertsEncode : (Instr.jpV0 0xFFF#12 15#4).wellFormed = true := by decide

theorem witness_EncodeInvertsDecode : decodeWord 0xBFFF#16 = .ok (.jpV0 0xFFF#12 15#4) := by decide

/-- A word is none of the rows of the table. -/
theorem no_row {w : Word} (h : (opcodeRows.all fun row => !matchesRow w row) = true) :
    ∀ row ∈ opcodeRows, matchesRow w row = false := by
  simpa [List.all_eq_true] using h

theorem witness_DecodeFollowsOpcodeTable :
    decodeWord 0xDFFF#16 = .ok (.drw 15#4 15#4 15#4) ∧
    (∀ row ∈ opcodeRows, matchesRow 0xFFFF#16 row = false) ∧
    decodeWord 0xFFFF#16 = .error (.unknownOpcode 0xFFFF#16) :=
  ⟨by decide, no_row (by decide), by decide⟩

/-- A completed cycle, a wait and a halt, each fetched at 4094. -/
theorem witness_StepRunsDecodedInstruction :
    ((last 0x6005).status = .running ∧ (last 0x6005).pc.toNat ≤ 4094 ∧
      decodeBytes [(last 0x6005).mem.read 4094, (last 0x6005).mem.read 4095] = .ok (.ldImm 0#4 5#8, []) ∧
      (result (.ldImm 0#4 5#8) (last 0x6005)).status = .running ∧
      waitsForSymbol (.ldImm 0#4 5#8) (last 0x6005) = false) ∧
    (decodeBytes [(last 0xF50A).mem.read 4094, (last 0xF50A).mem.read 4095] = .ok (.ldVxK 5#4, []) ∧
      waitsForSymbol (.ldVxK 5#4) (last 0xF50A) = true) ∧
    (decodeBytes [(last 0).mem.read 4094, (last 0).mem.read 4095] = .ok (.halt, []) ∧
      (result .halt (last 0)).status = .halted) := by decide

theorem witness_FetchBeyondMemoryFaults :
    (State.reset.setPc 4095#16).status = .running ∧ 4094 < (State.reset.setPc 4095#16).pc.toNat := by decide

theorem witness_UnknownWordFaults :
    (last 0xFFFF).status = .running ∧ (last 0xFFFF).pc.toNat ≤ 4094 ∧
    ∀ row ∈ opcodeRows, matchesRow (last 0xFFFF).fetchWord row = false :=
  ⟨by decide, by decide, no_row (by decide)⟩

/-- A faulted state; the host can drive keys there, and reset. -/
theorem witness_NothingLeavesFaultedButReset :
    (stepped (last 0xFFFF)).status = .faulted ∧
    ((stepped (last 0xFFFF)).hostAct (.driveKeys 1#16)).isSome = true ∧
    ((stepped (last 0xFFFF)).hostAct
      (.reset ⟨cosmac, Vector.replicate 80 0, [], resetKeyMap, .idle, Vector.replicate 16 0⟩)).isSome = true := by
  decide

/-- A core with a step, and one stopped in each of the three ways. -/
theorem witness_StepExistsUnlessStoppedOrWaiting :
    step State.reset = .next (stepped State.reset) ∧ (stepped (last 0)).status = .halted ∧
    (stepped (last 0xFFFF)).status = .faulted ∧ (last 0xF50A).HeldInKeyWait 5#4 :=
  ⟨rfl, by decide, by decide, by decide, by decide, by decide, by decide⟩

theorem witness_CompletedCycleStepsTimers :
    (last 0x6005).status = .running ∧ (last 0x6005).pc.toNat ≤ 4094 ∧
    decodeWord (last 0x6005).fetchWord = .ok (.ldImm 0#4 5#8) ∧
    exec (.ldImm 0#4 5#8) { last 0x6005 with pc := (last 0x6005).pc + 2#16 } =
      .next (result (.ldImm 0#4 5#8) { last 0x6005 with pc := (last 0x6005).pc + 2#16 }) ∧
    (result (.ldImm 0#4 5#8) { last 0x6005 with pc := (last 0x6005).pc + 2#16 }).status = .running :=
  ⟨by decide, by decide, by decide, rfl, by decide⟩

/-- A halt and a fault. -/
theorem witness_HaltAndFaultKeepTimers :
    (step (last 0) = .next (stepped (last 0)) ∧ (stepped (last 0)).status = .halted) ∧
    (step (last 0x00EE) = .next (stepped (last 0x00EE)) ∧ (stepped (last 0x00EE)).status = .faulted) :=
  ⟨⟨rfl, by decide⟩, rfl, by decide⟩

/-- What the hypotheses of CompletedCycleMovesPc say, with what its conclusion branches on. -/
def cycleCase (s : State) (i : Instr) (skips transfers : Bool) : Prop :=
  s.status = .running ∧ s.pc.toNat ≤ 4094 ∧ decodeWord s.fetchWord = .ok i ∧ step s = .next (stepped s) ∧
  (stepped s).status = .running ∧
  (isSkip i && skipCondition s i) = skips ∧ isTransfer i = transfers

/-- A skip that holds, one that does not, a transfer and a plain instruction, each fetched at 4094. -/
theorem witness_CompletedCycleMovesPc :
    cycleCase (last 0x3000) (.seImm 0#4 0#8) true false ∧ cycleCase (last 0x4000) (.sneImm 0#4 0#8) false false ∧
    cycleCase (last 0xBFFF) (.jpV0 0xFFF#12 15#4) false true ∧
    cycleCase (last 0x6005) (.ldImm 0#4 5#8) false false :=
  ⟨⟨by decide, by decide, by decide, rfl, by decide, by decide, by decide⟩,
   ⟨by decide, by decide, by decide, rfl, by decide, by decide, by decide⟩,
   ⟨by decide, by decide, by decide, rfl, by decide, by decide, by decide⟩,
   ⟨by decide, by decide, by decide, rfl, by decide, by decide, by decide⟩⟩

/-- A held key-wait fetched at 4094, with a symbol its table has and one it has not. -/
theorem witness_KeyWaitHoldsUntilSymbol :
    (last 0xF50A).HeldInKeyWait 5#4 ∧ (last 0xF50A).keymap.wf ∧ (0x0F#8, 15#4) ∈ (last 0xF50A).keymap ∧
    (∀ k, (0xFF#8, k) ∉ (last 0xF50A).keymap) :=
  ⟨⟨by decide, by decide, by decide, by decide⟩, by decide, by decide, keyOf_eq_none.mp (by decide)⟩

theorem witness_HaltStopsGracefully :
    (last 0).status = .running ∧ (last 0).pc.toNat ≤ 4094 ∧ (last 0).fetchWord = 0x0000#16 := by decide

theorem witness_OnlyWordZeroHalts :
    step (last 0) = .next (stepped (last 0)) ∧ (stepped (last 0)).status = .halted ∧
    (stepped (last 0xFFFF)).status = .faulted := ⟨rfl, by decide, by decide⟩

/-- What the hypotheses of the two statements about faults say, for the cause `c`. -/
def faultCase (i : Instr) (s : State) (c : FaultCause) : Prop :=
  s.status = .running ∧ exec i s = .next (result i s) ∧ (result i s).status = .faulted ∧
  (result i s).record.cause = c

/-- One fault of each cause of the execute phase, the range faults at the first `I` that leaves memory. -/
theorem witness_FaultsArePrecise :
    faultCase (.call 0x300#12) (depth 16) .stackOverflow ∧ faultCase .ret (depth 0) .stackUnderflow ∧
    faultCase (.ldVxK 5#4) (waiting [0xFF#8]) .unmappedKey ∧
    faultCase (.ldB 0#4) (index 4094#16) .memoryOutOfRange ∧
    (∀ x, Instr.ldB 0#4 ≠ .ldVxK x) :=
  ⟨⟨by decide, rfl, by decide, by decide⟩, ⟨by decide, rfl, by decide, by decide⟩,
   ⟨by decide, rfl, by decide, by decide⟩, ⟨by decide, rfl, by decide, by decide⟩, by decide⟩

theorem witness_FaultCausesAreThoseOfTheTable :
    faultCase (.call 0x300#12) (depth 16) .stackOverflow ∧ faultCase .ret (depth 0) .stackUnderflow ∧
    faultCase (.ldVxK 5#4) (waiting [0xFF#8]) .unmappedKey ∧
    faultCase (.storeRegs 0#4) (index 4081#16) .memoryOutOfRange ∧
    faultCase (.loadRegs 0#4) (index 0xFFFF#16) .memoryOutOfRange ∧
    faultCase (.drw 0#4 1#4 2#4) (index 4095#16) .memoryOutOfRange :=
  ⟨⟨by decide, rfl, by decide, by decide⟩, ⟨by decide, rfl, by decide, by decide⟩, ⟨by decide, rfl, by decide, by decide⟩,
   ⟨by decide, rfl, by decide, by decide⟩, ⟨by decide, rfl, by decide, by decide⟩,
   ⟨by decide, rfl, by decide, by decide⟩⟩

theorem witness_CallOnFullStackFaults : (depth 16).sp.val = 16 := by decide

theorem witness_UnmappedSymbolFaults :
    (waiting [0xFF#8]).host.syms = [0xFF#8] ∧ ∀ k, (0xFF#8, k) ∉ (waiting [0xFF#8]).keymap :=
  ⟨by decide, keyOf_eq_none.mp (by decide)⟩

/-- Each form at the first `I` that leaves memory, and at the last value of `I`. -/
theorem witness_AccessBeyondMemoryFaults :
    4095 < (index 4094#16).i.toNat + 3 - 1 ∧ 4095 < (index 4081#16).i.toNat + 16 - 1 ∧
    4095 < (index 0xFFFF#16).i.toNat + 16 - 1 ∧
    (0 < min (2#4).toNat (32 - ((index 4095#16).getV 1#4).toNat % 32) ∧
      4095 < (index 4095#16).i.toNat + min (2#4).toNat (32 - ((index 4095#16).getV 1#4).toNat % 32) - 1) := by
  refine ⟨by decide, by decide, ?_, by decide, by decide⟩
  show 4095 < 65535 + 16 - 1
  omega

/-- A form that completes and the same form when it faults. -/
theorem witness_InstructionsWriteOnlyTheirParts :
    exec (.storeRegs 0#4) (index 4080#16) = .next (result (.storeRegs 0#4) (index 4080#16)) ∧
    exec (.storeRegs 0#4) (index 4081#16) = .next (result (.storeRegs 0#4) (index 4081#16)) := ⟨rfl, rfl⟩

/-- A launch for the witnesses: a ROM of `n` bytes under the SUPER profile. -/
def launchOf (n : Nat) : LaunchArgs :=
  ⟨super, Vector.replicate 80 0x11#8, List.replicate n 0x60#8, resetKeyMap, .idle, Vector.replicate 16 7#16⟩

theorem witness_ProfileIsImmutable :
    (launch (launchOf 2)).isSome = true ∧ step State.reset = .next (stepped State.reset) ∧
    (State.reset.hostAct (.driveKeys 1#16)).isSome = true ∧
    (State.reset.hostAct (.reset (launchOf 2))).isSome = true ∧
    readsProfile (.ldImm 0#4 5#8) = false ∧
    exec (.ldImm 0#4 5#8) State.reset = .next (result (.ldImm 0#4 5#8) State.reset) :=
  ⟨by decide, rfl, by decide, by decide, by decide, rfl⟩

/-- An instruction that reads none of the inputs, and SKP, which reads `KEY` alone. -/
theorem witness_InputsReachOnlyTheirInstructions :
    exec (.ldImm 0#4 5#8) State.reset = .next (result (.ldImm 0#4 5#8) State.reset) ∧
    (∀ x, Instr.ldImm 0#4 5#8 ≠ .skp x ∧ Instr.ldImm 0#4 5#8 ≠ .sknp x) ∧
    exec (.skp 0#4) State.reset = .next (result (.skp 0#4) State.reset) ∧
    (∀ x, Instr.skp 0#4 ≠ .ldVxK x) ∧ (∀ x kk, Instr.skp 0#4 ≠ .rnd x kk) :=
  ⟨rfl, fun _ => ⟨nofun, nofun⟩, rfl, fun _ => nofun, fun _ _ => nofun⟩

/-- A canonical memory with a byte at each end, one of them a font byte overwritten with 0. -/
theorem witness_CanonicalMemoryIsUnique :
    Memory.wf [(0, 0x00#8), (4095, 0x01#8)] ∧ ¬ Memory.wf [(0, 0xF0#8)] := by decide

theorem witness_FetchSeesStores : 14 < 15 ∧ (index 4080#16).i.toNat + 15 ≤ 4095 := by decide

/-- The invariant at reset, where the statements about it begin. -/
theorem inv_reset : State.reset.Inv where
  memory := by decide
  pcBound := by decide
  stackBound := by decide
  recordClear := by decide
  recordSet := by decide
  keymapTotal := by decide

/-- The invariant at its bounds, in a state no run from reset meets: 16 held addresses, the largest `PC`. -/
theorem inv_full : ({ depth 16 with pc := 0x10FE#16 } : State).Inv where
  memory := by decide
  pcBound := by decide
  stackBound := by decide
  recordClear := by decide
  recordSet := by decide
  keymapTotal := by decide

theorem witness_StepKeepsInvariant :
    State.reset.Inv ∧ step State.reset = .next (stepped State.reset) ∧
    ({ depth 16 with pc := 0x10FE#16 } : State).Inv ∧
    step { depth 16 with pc := 0x10FE#16 } = .next (stepped { depth 16 with pc := 0x10FE#16 }) :=
  ⟨inv_reset, rfl, inv_full, rfl⟩

theorem witness_HostKeepsInvariant :
    State.reset.Inv ∧ (launchOf 2).keymap.wf ∧ (State.reset.hostAct (.reset (launchOf 2))).isSome = true ∧
    (State.reset.hostAct (.supplySym 1#8)).isSome = true :=
  ⟨inv_reset, by decide, by decide, by decide⟩

theorem witness_ResetValues : 80 ≤ 80 ∧ 79 < 80 := by decide

/-- The first ROM too large and the largest that is loaded. -/
theorem witness_LaunchLoadsFontAndRom :
    3584 < (launchOf 3585).rom.length ∧ (launchOf 3584).rom.length ≤ 3584 :=
  ⟨by show 3584 < (List.replicate 3585 0x60#8).length
      rw [List.length_replicate]
      omega,
   by show (List.replicate 3584 0x60#8).length ≤ 3584
      rw [List.length_replicate]⟩

theorem witness_CallPushesReturnAddress : (depth 15).sp.val < 16 := by decide

theorem witness_ReturnPopsOrFaults :
    (depth 16).sp.val = (15 : Fin 16).val + 1 ∧ (depth 1).sp.val = (0 : Fin 16).val + 1 ∧
    (depth 0).sp.val = 0 := by decide

/-- The operand under either value of `Q.shift_copy`. -/
theorem witness_ShiftsFollowProfile :
    (startQ cosmac 0 [(1#4, 5#8), (2#4, 255#8)]).q.shiftCopy = true ∧
    (startQ super 0 [(1#4, 5#8), (2#4, 255#8)]).q.shiftCopy = false := by decide

/-- A byte lined up, and none. -/
theorem witness_RandomByteIsMasked :
    (State.reset.setHost { HostInputs.idle with rndFeed := [0xA7#8] }).host.rndFeed = [0xA7#8] ∧
    State.reset.host.rndFeed = [] := by decide

theorem witness_AddToIndexFollowsProfile :
    (startQ cosmac 0 []).q.addiVf = false ∧ (startQ super 0 []).q.addiVf = true := by decide

theorem witness_DecimalDigitsAreStored : (index 4093#16).i.toNat + 2 ≤ 4095 := by decide

theorem witness_BlockStoreWritesAllRegisters :
    (index 4080#16).i.toNat + 15 ≤ 4095 ∧ (4079 < (index 4080#16).i.toNat) := by decide

theorem witness_BlockLoadReadsAllRegisters : (index 4080#16).i.toNat + 15 ≤ 4095 := by decide

theorem witness_BlockRoundTrip :
    (index 4080#16).i.toNat + 15 ≤ 4095 ∧
    exec (.storeRegs 0#4) (index 4080#16) = .next (result (.storeRegs 0#4) (index 4080#16)) :=
  ⟨by decide, rfl⟩

/-- The reset state with the key `V[0]` names pressed or not. -/
def keyed (k : Byte) (keys : BitVec 16) : State :=
  (State.reset.setV 0#4 k).setHost { HostInputs.idle with keys := keys }

/-- Key 15 pressed, not pressed, and the first value that names no key. -/
theorem witness_KeypadSkips :
    true = (((keyed 15#8 0x8000#16).getV 0#4).toNat < 16 &&
      (keyed 15#8 0x8000#16).host.keys.getLsbD ((keyed 15#8 0x8000#16).getV 0#4).toNat) ∧
    false = (((keyed 15#8 0x7FFF#16).getV 0#4).toNat < 16 &&
      (keyed 15#8 0x7FFF#16).host.keys.getLsbD ((keyed 15#8 0x7FFF#16).getV 0#4).toNat) ∧
    false = (((keyed 16#8 0xFFFF#16).getV 0#4).toNat < 16 &&
      (keyed 16#8 0xFFFF#16).host.keys.getLsbD ((keyed 16#8 0xFFFF#16).getV 0#4).toNat) := by decide

theorem witness_KeyWaitMapsSymbol :
    (waiting [0x0F#8]).keymap.wf ∧ (waiting [0x0F#8]).host.syms = [0x0F#8] ∧
    (0x0F#8, 15#4) ∈ (waiting [0x0F#8]).keymap := by decide

/-- The glyph of digit 0 at the lower right corner, over a lit pixel: the origin is (63, 31). -/
def corner : State := withLit [(63, 31)] (withRegs [(0#4, 63#8), (1#4, 31#8)] State.reset)

/-- The last rows in memory, no rows, and one scanned row whose bit meets a lit pixel. -/
theorem witness_DrawXorsSprite :
    (index 4081#16).i.toNat + 15 - 1 ≤ 4095 ∧ min (15#4).toNat (32 - ((index 4081#16).getV 1#4).toNat % 32) = 15 ∧
    min (0#4).toNat (32 - 0) = 0 ∧
    min (5#4).toNat (32 - (corner.getV 1#4).toNat % 32) = 1 ∧
    (spriteBit corner 63 31 1 63 31 ∧ pixelAt corner.fb 63 31 = true) ∧
    (∀ px py, px < 64 → py < 32 → spriteBit State.reset 0 0 1 px py → pixelAt State.reset.fb px py = false) := by
  refine ⟨by decide, by decide, by decide, by decide, ⟨⟨by decide, by decide, by decide, by decide, by decide⟩, by decide⟩, ?_⟩
  intro px py _ h _
  simp [pixelAt, State.reset, h]

/-- The second draw of DrawTwiceRestores is made on the state the first left, from the same registers. -/
theorem witness_DrawTwiceRestores :
    exec (.drw 0#4 1#4 5#4) corner = .next (result (.drw 0#4 1#4 5#4) corner) ∧ corner.status = .running ∧
    (result (.drw 0#4 1#4 5#4) corner).status = .running ∧
    (result (.drw 0#4 1#4 5#4) corner).i = corner.i ∧
    (∀ a, (result (.drw 0#4 1#4 5#4) corner).mem.read a = corner.mem.read a) ∧
    ((result (.drw 0#4 1#4 5#4) corner).getV 0#4).toNat % 64 = (corner.getV 0#4).toNat % 64 ∧
    ((result (.drw 0#4 1#4 5#4) corner).getV 1#4).toNat % 32 = (corner.getV 1#4).toNat % 32 :=
  ⟨rfl, by decide, by decide, by decide, fun _ => rfl, by decide, by decide⟩

/-- A draw that changes a pixel, and one on a blank display. -/
theorem witness_DrawStaysInRectangle :
    (corner.status = .running ∧ exec (.drw 0#4 1#4 5#4) corner = .next (result (.drw 0#4 1#4 5#4) corner) ∧
      pixelAt (result (.drw 0#4 1#4 5#4) corner).fb 63 31 ≠ pixelAt corner.fb 63 31) ∧
    (exec (.drw 0#4 1#4 5#4) State.reset = .next (result (.drw 0#4 1#4 5#4) State.reset) ∧
      (result (.drw 0#4 1#4 5#4) State.reset).status = .running ∧
      ∀ px py, pixelAt State.reset.fb px py = false) := by
  refine ⟨⟨by decide, rfl, by decide⟩, rfl, by decide, ?_⟩
  intro px py
  simp [pixelAt, State.reset]

theorem witness_SnapshotIsRowMajor : 63 < 64 ∧ 31 < 32 := by decide

end Sys2Proof.Tests
end

section
/-! PROOFS. The algebra of frames, and the frame of each operation on the state. -/

namespace Sys2Proof.Machine

theorem Part.same_refl (p : Part) (s : State) : p.Same s s := by
  cases p with
  | mem => exact fun _ => rfl
  | _ => exact Eq.refl _

theorem Part.Same.trans {p : Part} {s t u : State} (h : p.Same s t) (g : p.Same t u) : p.Same s u := by
  cases p with
  | mem => exact fun a => Eq.trans (g a) (h a)
  | _ => exact Eq.trans g h

theorem Frame.refl (l : List Part) (s : State) : Frame l s s := fun p _ => p.same_refl s

/-- A frame may list more parts than were touched. -/
theorem Frame.mono {l l' : List Part} {s t : State} (h : Frame l s t) (hl : l ⊆ l') : Frame l' s t :=
  fun p hp => h p fun hm => hp (hl hm)

/-- Two changes in a row touch what either of them touches. -/
theorem Frame.append {l l' : List Part} {s t u : State} (h : Frame l s t) (g : Frame l' t u) :
    Frame (l ++ l') s u :=
  fun p hp => (h p fun hm => hp (List.mem_append_left _ hm)).trans
    (g p fun hm => hp (List.mem_append_right _ hm))

/-- A part that both states hold alike need not be listed. -/
theorem Frame.unlist {p : Part} {l : List Part} {s t : State} (h : Frame (p :: l) s t) (hp : p.Same s t) :
    Frame l s t := by
  intro r hr
  by_cases he : r = p
  · exact he ▸ hp
  · exact h r (by simp [he, hr])

/-- A frame part by part: how a frame is shown for one operation on the state. -/
theorem frame_iff {l : List Part} {s t : State} :
    Frame l s t ↔
      (.v ∉ l → t.v = s.v) ∧ (.i ∉ l → t.i = s.i) ∧ (.pc ∉ l → t.pc = s.pc) ∧
      (.stack ∉ l → t.stack = s.stack) ∧ (.sp ∉ l → t.sp = s.sp) ∧ (.dt ∉ l → t.dt = s.dt) ∧
      (.st ∉ l → t.st = s.st) ∧ (.fb ∉ l → t.fb = s.fb) ∧
      (.mem ∉ l → ∀ a, t.mem.read a = s.mem.read a) ∧ (.q ∉ l → t.q = s.q) ∧
      (.keymap ∉ l → t.keymap = s.keymap) ∧ (.status ∉ l → t.status = s.status) ∧
      (.record ∉ l → t.record = s.record) ∧ (.keys ∉ l → t.host.keys = s.host.keys) ∧
      (.keyFeed ∉ l → t.host.keyFeed = s.host.keyFeed) ∧ (.syms ∉ l → t.host.syms = s.host.syms) ∧
      (.rndFeed ∉ l → t.host.rndFeed = s.host.rndFeed) ∧ (.draws ∉ l → t.host.draws = s.host.draws) := by
  constructor
  · intro h
    exact ⟨h .v, h .i, h .pc, h .stack, h .sp, h .dt, h .st, h .fb, h .mem, h .q, h .keymap, h .status,
      h .record, h .keys, h .keyFeed, h .syms, h .rndFeed, h .draws⟩
  · rintro ⟨hv, hi, hpc, hstack, hsp, hdt, hst, hfb, hmem, hq, hkm, hstat, hrec, hk, hkf, hsy, hrf, hd⟩ p
    cases p <;> assumption

section
variable (s : State)

theorem State.setV_frame (x : Reg) (b : Byte) : Frame [.v] s (s.setV x b) := by simp [frame_iff]
theorem State.setAllV_frame (v : Vector Byte 16) : Frame [.v] s (s.setAllV v) := by simp [frame_iff]
theorem State.setVWithFlag_frame (x : Reg) (b f : Byte) : Frame [.v] s (s.setVWithFlag x b f) := by
  simp [frame_iff]
theorem State.setI_frame (a : Word) : Frame [.i] s (s.setI a) := by simp [frame_iff]
theorem State.setPc_frame (a : Word) : Frame [.pc] s (s.setPc a) := by simp [frame_iff]
theorem State.setDt_frame (b : Byte) : Frame [.dt] s (s.setDt b) := by simp [frame_iff]
theorem State.setSt_frame (b : Byte) : Frame [.st] s (s.setSt b) := by simp [frame_iff]
theorem State.setFb_frame (fb : FrameBuffer) : Frame [.fb] s (s.setFb fb) := by simp [frame_iff]
theorem State.skipIf_frame (c : Bool) : Frame [.pc] s (s.skipIf c) := by simp [frame_iff]
theorem State.blockAdvance_frame : Frame [.i] s s.blockAdvance := by simp [frame_iff]
theorem State.storeAtI_frame (l : List Byte) : Frame [.mem] s (s.storeAtI l) := by simp [frame_iff]
theorem State.halt_frame : Frame [.status] s s.halt := by simp [frame_iff]
theorem State.raise_frame (c : FaultCause) (n : Word) : Frame [.status, .record] s (s.raise c n) := by
  simp [frame_iff]
theorem State.raiseRange_frame : Frame [.status, .record] s s.raiseRange := by simp [frame_iff]
theorem State.afterDraw_frame : Frame [.rndFeed, .draws] s s.afterDraw := by simp [frame_iff]
theorem State.afterSym_frame : Frame [.syms] s s.afterSym := by simp [frame_iff]

theorem State.pushPc_frame {t : State} (ht : s.pushPc = some t) : Frame [.stack, .sp] s t := by
  obtain ⟨hk, rfl⟩ := s.pushPc_eq_some ht
  simp [frame_iff]

/-- The pop does not erase its entry. -/
theorem State.popPc_frame {t : State} (ht : s.popPc = some t) : Frame [.pc, .sp] s t := by
  obtain ⟨hk, rfl⟩ := s.popPc_eq_some ht
  simp [frame_iff]

end

end Sys2Proof.Machine
end

section
/-! PROOFS. What the key-wait does with a symbol (spec/45_keypad.md R142, spec/60_exceptions.md R165). -/

namespace Sys2Proof.Machine

section
variable {s t : State} {x : Reg} {sym : Byte} {rest : List Byte}

/-- A symbol of the key table gives `V[x]` its key (R142). -/
theorem exec_ldVxK_mapped {k : Key} (hs : s.host.syms = sym :: rest) (hk : keyOf s.keymap sym = some k) :
    exec (.ldVxK x) s = .next (s.afterSym.setV x (k.setWidth 8)) := by
  simp only [exec, execLdVxK, hs, hk]

/-- A symbol outside the key table faults (R165). -/
theorem exec_ldVxK_unmapped (hs : s.host.syms = sym :: rest) (hk : keyOf s.keymap sym = none) :
    exec (.ldVxK x) s = .next (s.afterSym.raise .unmappedKey (byteWord sym)) := by
  simp only [exec, execLdVxK, hs, hk]

/-- Everything a key-wait that answers a next state can have done. -/
theorem exec_ldVxK_cases (he : exec (.ldVxK x) s = .next t) :
    ∃ sym rest, s.host.syms = sym :: rest ∧
      ((∃ k, keyOf s.keymap sym = some k ∧ t = s.afterSym.setV x (k.setWidth 8)) ∨
       (keyOf s.keymap sym = none ∧ t = s.afterSym.raise .unmappedKey (byteWord sym))) := by
  cases hs : s.host.syms with
  | nil =>
    rw [exec_of_waiting (by simp [waitsForSymbol, hs])] at he
    cases he
  | cons sym rest =>
    refine ⟨sym, rest, rfl, ?_⟩
    cases hk : keyOf s.keymap sym with
    | some k =>
      rw [exec_ldVxK_mapped hs hk] at he
      cases he
      exact .inl ⟨k, rfl, rfl⟩
    | none =>
      rw [exec_ldVxK_unmapped hs hk] at he
      cases he
      exact .inr ⟨rfl, rfl⟩

end

end Sys2Proof.Machine
end

section
/-! PROOFS. The parts the execute phase of each instruction touches (spec/10_state.md R24 to R41). -/

namespace Sys2Proof.Machine

/-- The execute phase touches only the parts the table of writers gives its instruction. -/
theorem exec_frame {i : Instr} {s t : State} (he : exec i s = .next t) : Frame (writtenParts i) s t := by
  cases i with
  | halt => cases he; exact s.halt_frame
  | cls => cases he; exact s.setFb_frame _
  | ret =>
    cases he
    split
    · next ht => exact (s.popPc_frame ht).mono (by simp [writtenParts])
    · exact (s.raise_frame _ _).mono (by simp [writtenParts])
  | jp | jpV0 => cases he; exact s.setPc_frame _
  | call =>
    cases he
    split
    · next ht => exact ((s.pushPc_frame ht).append (State.setPc_frame _ _)).mono (by simp [writtenParts])
    · exact (s.raise_frame _ _).mono (by simp [writtenParts])
  | seImm | sneImm | seReg | sneReg | skp | sknp => cases he; exact s.skipIf_frame _
  | ldImm | addImm | ldReg | orReg | andReg | xorReg | ldVxDt => cases he; exact s.setV_frame _ _
  | addReg | sub | shr | subn | shl => cases he; exact s.setVWithFlag_frame _ _ _
  | ldI | ldF => cases he; exact s.setI_frame _
  | rnd =>
    cases he
    exact (s.afterDraw_frame.append (State.setV_frame _ _ _)).mono (by simp [writtenParts])
  | drw =>
    cases he
    split
    · exact ((s.setFb_frame _).append (State.setV_frame _ _ _)).mono (by simp [writtenParts])
    · exact s.raiseRange_frame.mono (by simp [writtenParts])
  | ldVxK x =>
    obtain ⟨sym, rest, -, ⟨k, -, rfl⟩ | ⟨-, rfl⟩⟩ := exec_ldVxK_cases he
    · exact (s.afterSym_frame.append (State.setV_frame _ _ _)).mono (by simp [writtenParts])
    · exact (s.afterSym_frame.append (State.raise_frame _ _ _)).mono (by simp [writtenParts])
  | ldDtVx => cases he; exact s.setDt_frame _
  | ldStVx => cases he; exact s.setSt_frame _
  | addI =>
    cases he
    split
    · exact (s.setI_frame _).append (State.setV_frame _ _ _)
    · exact (s.setI_frame _).mono (by simp [writtenParts])
  | ldB =>
    cases he
    split
    · exact (s.storeAtI_frame _).mono (by simp [writtenParts])
    · exact s.raiseRange_frame.mono (by simp [writtenParts])
  | storeRegs =>
    cases he
    split
    · exact ((s.storeAtI_frame _).append (State.blockAdvance_frame _)).mono (by simp [writtenParts])
    · exact s.raiseRange_frame.mono (by simp [writtenParts])
  | loadRegs =>
    cases he
    split
    · exact ((s.setAllV_frame _).append (State.blockAdvance_frame _)).mono (by simp [writtenParts])
    · exact s.raiseRange_frame.mono (by simp [writtenParts])

end Sys2Proof.Machine

open Sys2Proof Sys2Proof.Machine

/-- Settles O22, the frame of the execute phase, instruction by instruction. -/
theorem instructionsWriteOnlyTheirParts : Obligations.InstructionsWriteOnlyTheirParts :=
  fun _ _ _ => exec_frame
end

section
/-! PROOFS. The invariant under the operations on the state, in the execute phase, and in a step
(spec/10_state.md R25, R31, R43). -/

namespace Sys2Proof.Machine

section
variable {s t : State}

theorem State.Inv.setV (h : s.Inv) (x : Reg) (b : Byte) : (s.setV x b).Inv := { h with }
theorem State.Inv.setAllV (h : s.Inv) (v : Vector Byte 16) : (s.setAllV v).Inv := { h with }
theorem State.Inv.setI (h : s.Inv) (a : Word) : (s.setI a).Inv := { h with }
theorem State.Inv.setDt (h : s.Inv) (b : Byte) : (s.setDt b).Inv := { h with }
theorem State.Inv.setSt (h : s.Inv) (b : Byte) : (s.setSt b).Inv := { h with }
theorem State.Inv.setFb (h : s.Inv) (fb : FrameBuffer) : (s.setFb fb).Inv := { h with }
theorem State.Inv.setHost (h : s.Inv) (i : HostInputs) : (s.setHost i).Inv := { h with }

theorem State.Inv.setPc (h : s.Inv) {a : Word} (ha : a.toNat ≤ 0x10FE) : (s.setPc a).Inv :=
  { h with pcBound := ha }

theorem State.Inv.setMem (h : s.Inv) {m : Memory} (hm : m.wf) : (s.setMem m).Inv := { h with memory := hm }

theorem State.Inv.setVWithFlag (h : s.Inv) (x : Reg) (b f : Byte) : (s.setVWithFlag x b f).Inv :=
  (h.setV x b).setV regF f

/-- An instruction's width added to an address of memory, or to the first one past it, needs no wraparound. -/
theorem toNat_add_two {a : Word} (ha : a.toNat ≤ 4096) : (a + 2#16).toNat = a.toNat + 2 := by
  rw [BitVec.toNat_add, BitVec.toNat_ofNat]
  omega

theorem State.Inv.skipIf (h : s.Inv) (hp : s.pc.toNat ≤ 4096) (c : Bool) : (s.skipIf c).Inv := by
  cases c with
  | false => exact h
  | true => exact h.setPc (by rw [toNat_add_two hp]; omega)

theorem State.Inv.blockAdvance (h : s.Inv) : s.blockAdvance.Inv := by
  unfold State.blockAdvance
  split
  · exact h.setI _
  · exact h

theorem State.Inv.storeAtI (h : s.Inv) (l : List Byte) : (s.storeAtI l).Inv :=
  h.setMem (Memory.wf_writeBytes h.memory _ l)

/-- A halt writes no record, so it keeps the invariant only where none stands. -/
theorem State.Inv.halt (h : s.Inv) (hr : s.status = .running) : s.halt.Inv :=
  { h with
    recordClear := fun _ => h.recordClear (by simp [hr])
    recordSet := fun hf => by simp at hf }

/-- A raised fault sets the status together with its record (R43, R166). -/
theorem State.Inv.raiseAt (h : s.Inv) (p : Word) {c : FaultCause} (hc : c ≠ .none) (n : Word) :
    (s.raiseAt p c n).Inv :=
  { h with
    recordClear := fun hf => by simp at hf
    recordSet := fun _ => hc }

theorem State.Inv.raise (h : s.Inv) {c : FaultCause} (hc : c ≠ .none) (n : Word) : (s.raise c n).Inv :=
  h.raiseAt _ hc n

theorem State.Inv.raiseRange (h : s.Inv) : s.raiseRange.Inv := h.raise (by decide) _

/-- The pushed entry is the advanced `PC`, at most 4096 (R31). -/
theorem State.Inv.pushPc (h : s.Inv) (hp : s.pc.toNat ≤ 4096) (ht : s.pushPc = some t) : t.Inv := by
  obtain ⟨hk, rfl⟩ := State.pushPc_eq_some s ht
  refine { h with stackBound := fun k hlt => ?_ }
  by_cases he : s.sp.val = k.val
  · simpa [he] using hp
  · have hlt' : k.val < s.sp.val := by simp only [State.setStack_sp] at hlt; omega
    simpa [Vector.getElem_set, he] using h.stackBound k hlt'

/-- The popped entry is one of those held, so `PC` is at most 4096 (R31). -/
theorem State.Inv.popPc (h : s.Inv) (ht : s.popPc = some t) : t.Inv := by
  obtain ⟨hk, rfl⟩ := State.popPc_eq_some s ht
  have hpop := h.stackBound ⟨s.sp.val - 1, by omega⟩ (Nat.sub_one_lt_of_lt hk)
  exact { h with
    pcBound := Nat.le_trans hpop (by decide)
    stackBound := fun k hlt => h.stackBound k (Nat.lt_of_lt_of_le hlt (Nat.sub_le _ _)) }

/-- The end of a cycle writes the timers and the host's inputs alone. -/
theorem State.Inv.endCycle (h : s.Inv) : (endCycle s).Inv := by
  by_cases hr : s.status = .running
  · rw [endCycle_of_running hr]
    exact ((h.setDt _).setSt _).setHost _
  · rwa [endCycle_of_stopped hr]

end

theorem addrWord_toNat (nnn : Addr) : (addrWord nnn).toNat = nnn.toNat :=
  BitVec.toNat_setWidth_of_le (by decide)

theorem byteWord_toNat (b : Byte) : (byteWord b).toNat = b.toNat :=
  BitVec.toNat_setWidth_of_le (by decide)

/-- An address with a register added needs no wraparound in 16 bits (R125). -/
theorem addrWord_add_byteWord_toNat (nnn : Addr) (b : Byte) :
    (addrWord nnn + byteWord b).toNat = nnn.toNat + b.toNat := by
  rw [BitVec.toNat_add, addrWord_toNat, byteWord_toNat]
  omega

/-- The execute phase keeps the invariant, `PC` being at most 4096 after the fetch (R25, R57). -/
theorem exec_keeps_inv {i : Instr} {s t : State} (h : s.Inv) (hr : s.status = .running)
    (hp : s.pc.toNat ≤ 4096) (he : exec i s = .next t) : t.Inv := by
  cases i with
  | halt => cases he; exact h.halt hr
  | cls => cases he; exact h.setFb _
  | ret =>
    cases he
    split
    · next ht => exact h.popPc ht
    · exact h.raise (by decide) _
  | jp nnn => cases he; exact h.setPc (by rw [addrWord_toNat]; omega)
  | call nnn =>
    cases he
    split
    · next ht => exact (h.pushPc hp ht).setPc (by rw [addrWord_toNat]; omega)
    · exact h.raise (by decide) _
  | seImm | sneImm | seReg | sneReg | skp | sknp => cases he; exact h.skipIf hp _
  | ldImm | addImm | ldReg | orReg | andReg | xorReg | ldVxDt => cases he; exact h.setV _ _
  | addReg | sub | shr | subn | shl => cases he; exact h.setVWithFlag _ _ _
  | ldI | ldF => cases he; exact h.setI _
  | jpV0 nnn x => cases he; exact h.setPc (by rw [addrWord_add_byteWord_toNat]; omega)
  | rnd => cases he; exact (h.setHost _).setV _ _
  | drw =>
    cases he
    split
    · exact (h.setFb _).setV _ _
    · exact h.raiseRange
  | ldVxK x =>
    obtain ⟨sym, rest, -, ⟨k, -, rfl⟩ | ⟨-, rfl⟩⟩ := exec_ldVxK_cases he
    · exact (h.setHost _).setV _ _
    · exact State.Inv.raise (h.setHost _) (by decide) _
  | ldDtVx => cases he; exact h.setDt _
  | ldStVx => cases he; exact h.setSt _
  | addI =>
    cases he
    split
    · exact (h.setI _).setV _ _
    · exact h.setI _
  | ldB =>
    cases he
    split
    · exact h.storeAtI _
    · exact h.raiseRange
  | storeRegs =>
    cases he
    split
    · exact (h.storeAtI _).blockAdvance
    · exact h.raiseRange
  | loadRegs =>
    cases he
    split
    · exact (h.setAllV _).blockAdvance
    · exact h.raiseRange

end Sys2Proof.Machine

open Sys2Proof Sys2Proof.Machine

/-- Settles O28: a fetch leaves `PC` at most 4096, and from there each execute phase and the end of the cycle
keep the invariant. -/
theorem stepKeepsInvariant : Obligations.StepKeepsInvariant := by
  intro s t h hs
  obtain ⟨hr, hcase⟩ := step_cases hs
  have hadv (hp : s.pc.toNat ≤ 4094) : s.advance.pc.toNat ≤ 4096 := by
    rw [State.advance_pc, toNat_add_two (by omega)]; omega
  have hinv (hp : s.pc.toNat ≤ 4094) : s.advance.Inv := h.setPc (Nat.le_trans (hadv hp) (by decide))
  rcases hcase with ⟨-, rfl⟩ | ⟨hp, _, -, rfl⟩ | ⟨hp, i, u, -, he, rfl⟩
  · exact h.raiseAt _ (by decide) _
  · exact (hinv hp).raise (by decide) _
  · exact (exec_keeps_inv (hinv hp) hr (hadv hp) he).endCycle
end

section
/-! PROOFS. What the host can do between two cycles: it writes its inputs or launches (spec/10_state.md R47). -/

namespace Sys2Proof.Machine

theorem launch_eq_some {a : LaunchArgs} {s : State} (h : launch a = some s) :
    s = { State.reset with
      mem := bootMemory a.font.toList a.rom, q := a.q, keymap := a.keymap, host := a.host, stack := a.stack } := by
  unfold launch at h
  split at h
  · exact (Option.some.inj h).symm
  · cases h

/-- Everything a host action that is not refused can have done (R47, R176). -/
theorem hostAct_cases {s t : State} {a : HostAction} (h : s.hostAct a = some t) :
    (∃ i, t = s.setHost i) ∨ ∃ l, a = .reset l ∧ launch l = some t := by
  cases a with
  | reset l => exact .inr ⟨l, rfl, h⟩
  | _ => exact .inl ⟨_, (Option.some.inj h).symm⟩

/-- A launch meets the invariant once its key table is total: its memory is written from the empty one, and it
holds no return address and no fault (R8, R191). -/
theorem launch_inv {a : LaunchArgs} {s : State} (h : launch a = some s) (hk : a.keymap.wf) : s.Inv := by
  rw [launch_eq_some h]
  exact {
    memory := Memory.wf_writeBytes (Memory.wf_writeBytes Memory.wf_nil _ _) _ _
    pcBound := show (0x200#16).toNat ≤ 0x10FE by decide
    stackBound := fun k hlt => absurd hlt (Nat.not_lt_zero _)
    recordClear := fun _ => rfl
    recordSet := fun hf => by cases hf
    keymapTotal := hk }

end Sys2Proof.Machine

open Sys2Proof Sys2Proof.Machine

/-- Settles O29: a host action is a change of the inputs or a launch. -/
theorem hostKeepsInvariant : Obligations.HostKeepsInvariant := by
  intro s t a h hk ht
  rcases hostAct_cases ht with ⟨i, rfl⟩ | ⟨l, rfl, hl⟩
  · exact h.setHost i
  · exact launch_inv hl (hk l rfl)
end

section
/-! PROOFS. The profile: who writes it and who reads it (spec/10_state.md R38). -/

namespace Sys2Proof.Machine

/-- No execute phase writes the profile (R38). -/
theorem exec_q {i : Instr} {s t : State} (he : exec i s = .next t) : t.q = s.q :=
  exec_frame he .q (by cases i <;> simp [writtenParts])

/-- No step writes the profile (R38). -/
theorem step_q {s t : State} (h : step s = .next t) : t.q = s.q := by
  obtain ⟨-, ⟨-, rfl⟩ | ⟨-, _, -, rfl⟩ | ⟨-, i, u, -, he, rfl⟩⟩ := step_cases h
  · rfl
  · rfl
  · simpa using exec_q he

/-! ## Another profile -/

section
variable (s : State) (p : Quirks)

theorem State.skipIf_setQ (c : Bool) : (s.setQ p).skipIf c = (s.skipIf c).setQ p := by
  cases c <;> rfl

theorem State.pushPc_setQ : (s.setQ p).pushPc = s.pushPc.map (·.setQ p) := by
  by_cases h : s.sp.val < 16
  · rw [State.pushPc_of_lt s h, State.pushPc_of_lt (s.setQ p) h]; rfl
  · simp [State.pushPc, h]

theorem State.popPc_setQ : (s.setQ p).popPc = s.popPc.map (·.setQ p) := by
  by_cases h : 0 < s.sp.val
  · rw [State.popPc_of_pos s h, State.popPc_of_pos (s.setQ p) h]; rfl
  · simp [State.popPc, h]

/-- The scan reads memory at `I` and no profile. -/
theorem State.composed_setQ (x y : Reg) (n : Count) : (s.setQ p).composed x y n = s.composed x y n :=
  scanRows_congr (s := s) (s' := s.setQ p) (fun _ => rfl) _ _ _ _

end

/-- An instruction that reads no profile does the same under another one, which it leaves in place (R38). -/
theorem exec_setQ {i : Instr} {s t : State} (p : Quirks) (hi : readsProfile i = false)
    (he : exec i s = .next t) : exec i (s.setQ p) = .next (t.setQ p) := by
  cases i with
  | shr | shl | jpV0 | addI | storeRegs | loadRegs => cases hi
  | seImm | sneImm | seReg | sneReg | skp | sknp => cases he; exact congrArg _ (s.skipIf_setQ p _)
  | ret =>
    cases he
    simp only [exec, execRet, State.popPc_setQ]
    cases s.popPc <;> rfl
  | call =>
    cases he
    simp only [exec, execCall, State.pushPc_setQ]
    cases s.pushPc <;> rfl
  | drw x y n =>
    cases he
    simp only [exec, execDrw, State.composed_setQ]
    rw [apply_ite (State.setQ · p)]
    rfl
  | ldB x =>
    cases he
    rw [apply_ite (State.setQ · p)]
    rfl
  | ldVxK x =>
    obtain ⟨sym, rest, hs, ⟨k, hk, rfl⟩ | ⟨hk, rfl⟩⟩ := exec_ldVxK_cases he
    · exact exec_ldVxK_mapped (s := s.setQ p) hs hk
    · exact exec_ldVxK_unmapped (s := s.setQ p) hs hk
  | _ => cases he; rfl

/-- What shows that an instruction reads the profile: something the two effects differ in. -/
theorem exec_setQ_ne {α : Type} {i : Instr} {s t u : State} {p : Quirks} (hu : exec i (s.setQ p) = .next u)
    (f : State → α) (hf : f u ≠ f (t.setQ p)) : exec i (s.setQ p) ≠ .next (t.setQ p) := by
  intro h
  rw [hu, Host.Outcome.next.injEq] at h
  exact hf (congrArg f h)

/-- The reset state with registers in which every profile bit shows: the operands of the shifts differ, the
offsets of the jump differ, and `VF` is not the flag of ADD I. -/
def profileProbe : State :=
  (((State.reset.setV 1#4 4#8).setV 2#4 8#8).setV 3#4 1#8).setV regF 1#8

/-- The profile of the reset state with every bit turned over. -/
def otherProfile : Quirks := { shiftCopy := false, jumpVx := true, addiVf := true, blockInc := false }

/-- Each of the six instructions has another effect in `profileProbe` under the other profile (R38). -/
theorem profile_read :
    ∀ i ∈ [Instr.shr 1#4 2#4, .shl 1#4 2#4, .jpV0 0x300#12 3#4, .addI 2#4, .storeRegs 0#4, .loadRegs 0#4],
      readsProfile i = true ∧ ∃ s t p, exec i s = .next t ∧ exec i (s.setQ p) ≠ .next (t.setQ p) := by
  intro i hi
  simp only [List.mem_cons, List.not_mem_nil, or_false] at hi
  rcases hi with rfl | rfl | rfl | rfl | rfl | rfl
  · exact ⟨rfl, profileProbe, _, otherProfile, rfl, exec_setQ_ne rfl (·.getV 1#4) (by decide)⟩
  · exact ⟨rfl, profileProbe, _, otherProfile, rfl, exec_setQ_ne rfl (·.getV 1#4) (by decide)⟩
  · exact ⟨rfl, profileProbe, _, otherProfile, rfl, exec_setQ_ne rfl (·.pc) (by decide)⟩
  · exact ⟨rfl, profileProbe, _, otherProfile, rfl, exec_setQ_ne rfl (·.getV regF) (by decide)⟩
  · exact ⟨rfl, profileProbe, _, otherProfile, rfl, exec_setQ_ne rfl (·.i) (by decide)⟩
  · exact ⟨rfl, profileProbe, _, otherProfile, rfl, exec_setQ_ne rfl (·.i) (by decide)⟩

end Sys2Proof.Machine

open Sys2Proof Sys2Proof.Machine

/-- Settles O23: launch latches the profile, neither a step nor another host action writes it, and each of the six
readers is shown by a state that tells two profiles apart. -/
theorem profileIsImmutable : Obligations.ProfileIsImmutable := by
  refine ⟨fun a s h => ?_, fun s t => step_q, fun s t a h => ?_, fun i s t p => exec_setQ p, profile_read⟩
  · rw [launch_eq_some h]
  · rcases hostAct_cases h with ⟨i, rfl⟩ | ⟨l, rfl, hl⟩
    · exact .inl rfl
    · exact .inr ⟨l, rfl, by rw [launch_eq_some hl]⟩
end

section
/-! PROOFS. Canonical memory: equal reads make equal data (spec/10_state.md R39). -/

namespace Sys2Proof.Machine

theorem Memory.wf_cons {a : Nat} {x : Byte} {m : Memory} :
    Memory.wf ((a, x) :: m) ↔ (∀ c ∈ m, a < c.1) ∧ a < 4096 ∧ x ≠ unlisted a ∧ m.wf := by
  simp only [Memory.wf, List.pairwise_cons, List.forall_mem_cons]
  tauto

/-- Below the addresses it lists, memory reads as the unlisted bytes. -/
theorem Memory.read_eq_unlisted {m : Memory} {a : Nat} (h : ∀ c ∈ m, a < c.1) : m.read a = unlisted a := by
  induction m with
  | nil => rfl
  | cons c m ih =>
    obtain ⟨hc, hm⟩ := List.forall_mem_cons.1 h
    rw [Memory.read, if_neg (Nat.ne_of_lt hc), ih hm]

theorem Memory.read_head (a : Nat) (x : Byte) (m : Memory) : Memory.read ((a, x) :: m) a = x := if_pos rfl

/-- A canonical memory that lists a first address does not read as one all of whose addresses are higher. -/
theorem Memory.not_read_alike {a : Nat} {x : Byte} {m n : Memory} (hx : x ≠ unlisted a)
    (hn : ∀ c ∈ n, a < c.1) : ¬ ∀ b, Memory.read ((a, x) :: m) b = n.read b := fun h =>
  hx (by rw [← Memory.read_eq_unlisted hn, ← h a, Memory.read_head])

/-- Canonical memories are told apart by their reads: their first addresses agree, since the lower of the two
is listed in one memory alone, and so do the bytes there and, by induction, the rest. -/
theorem Memory.eq_of_read_alike {m n : Memory} (hm : m.wf) (hn : n.wf) (h : ∀ b, m.read b = n.read b) :
    m = n := by
  induction m generalizing n with
  | nil =>
    cases n with
    | nil => rfl
    | cons d n =>
      obtain ⟨-, -, hy, -⟩ := Memory.wf_cons.1 hn
      exact absurd (fun b => (h b).symm) (Memory.not_read_alike hy (by simp))
  | cons c m ih =>
    obtain ⟨a, x⟩ := c
    obtain ⟨ham, -, hx, hm'⟩ := Memory.wf_cons.1 hm
    cases n with
    | nil => exact absurd h (Memory.not_read_alike hx (by simp))
    | cons d n =>
      obtain ⟨b, y⟩ := d
      obtain ⟨hbn, -, hy, hn'⟩ := Memory.wf_cons.1 hn
      rcases Nat.lt_trichotomy a b with hab | rfl | hba
      · refine absurd h (Memory.not_read_alike hx (List.forall_mem_cons.2 ⟨hab, fun c hc => ?_⟩))
        exact Nat.lt_trans hab (hbn c hc)
      · have hxy : x = y := by rw [← Memory.read_head a x m, h a, Memory.read_head]
        have htail : ∀ k, Memory.read m k = Memory.read n k := fun k => by
          by_cases hk : k = a
          · rw [hk, Memory.read_eq_unlisted ham, Memory.read_eq_unlisted hbn]
          · simpa [Memory.read, hk] using h k
        rw [hxy, ih hm' hn' htail]
      · refine absurd (fun k => (h k).symm)
          (Memory.not_read_alike hy (List.forall_mem_cons.2 ⟨hba, fun c hc => ?_⟩))
        exact Nat.lt_trans hba (ham c hc)

end Sys2Proof.Machine

open Sys2Proof Sys2Proof.Machine

/-- Settles O25, by induction on the two lists. -/
theorem canonicalMemoryIsUnique : Obligations.CanonicalMemoryIsUnique :=
  fun _ _ => Memory.eq_of_read_alike
end

section
/-! PROOFS. The blocking cycle of the key-wait (spec/10_state.md R45). -/

namespace Sys2Proof.Machine

@[simp] theorem HostInputs.nextKeys_syms (h : HostInputs) : h.nextKeys.syms = h.syms := by
  unfold HostInputs.nextKeys; split <;> rfl
@[simp] theorem HostInputs.nextKeys_rndFeed (h : HostInputs) : h.nextKeys.rndFeed = h.rndFeed := by
  unfold HostInputs.nextKeys; split <;> rfl
@[simp] theorem HostInputs.nextKeys_draws (h : HostInputs) : h.nextKeys.draws = h.draws := by
  unfold HostInputs.nextKeys; split <;> rfl

section
variable (t : State)

@[simp] theorem endCycle_getV (r : Reg) : (endCycle t).getV r = t.getV r := by simp [State.getV]

/-- The end of a cycle touches the timers and the keys alone (R94, R47). -/
theorem endCycle_frame : Frame [.dt, .st, .keys, .keyFeed] t (endCycle t) := by
  by_cases h : t.status = .running
  · rw [endCycle_of_running h]; simp [frame_iff]
  · rw [endCycle_of_stopped h]; exact Frame.refl _ t

@[simp] theorem endCycle_syms : (endCycle t).host.syms = t.host.syms := endCycle_frame t .syms (by simp)

variable {t}

theorem endCycle_dt_toNat (h : t.status = .running) : (endCycle t).dt.toNat = t.dt.toNat - 1 := by
  rw [endCycle_of_running h]; exact timerDown_toNat t.dt

theorem endCycle_st_toNat (h : t.status = .running) : (endCycle t).st.toNat = t.st.toNat - 1 := by
  rw [endCycle_of_running h]; exact timerDown_toNat t.st

/-- A core whose step does not exist has none however often it is asked. -/
theorem run_of_fault {r : Fault} (h : step t = .fault r) (n : Nat) : core.run (n + 1) t = .fault r := by
  simp only [Host.Core.run, show core.step t = .fault r from h]

end

/-- The state with one more symbol on the key-wait channel (R142). -/
def State.supplied (s : State) (sym : Byte) : State :=
  s.setHost { s.host with syms := s.host.syms ++ [sym] }

theorem State.hostAct_supplySym (s : State) (sym : Byte) : s.hostAct (.supplySym sym) = some (s.supplied sym) :=
  rfl

theorem State.supplied_frame (s : State) (sym : Byte) : Frame [.syms] s (s.supplied sym) := by
  simp [frame_iff, State.supplied]

section
variable {s : State} {x : Reg} (h : s.HeldInKeyWait x)
include h

theorem State.HeldInKeyWait.step_eq : step s = .fault .awaitingSymbol := by
  obtain ⟨hr, hp, hd, hs⟩ := h
  exact step_of_waiting hr hp hd (by simp [waitsForSymbol, hs])

/-- Keys the host drives leave the key-wait as it is (R142). -/
theorem State.HeldInKeyWait.driveKeys (keys : BitVec 16) :
    ∃ t, s.hostAct (.driveKeys keys) = some t ∧ t.HeldInKeyWait x ∧ Frame [.keys] s t :=
  ⟨_, rfl, h, by simp [frame_iff]⟩

theorem State.HeldInKeyWait.supplied_syms (sym : Byte) : (s.supplied sym).host.syms = [sym] := by
  obtain ⟨-, -, -, hs⟩ := h
  simp [State.supplied, hs]

/-- With a symbol of the key table the key-wait completes, and one timer step follows (R142, R94). -/
theorem State.HeldInKeyWait.step_mapped {sym : Byte} {k : Key} (hk : keyOf s.keymap sym = some k) :
    ∃ u, step (s.supplied sym) = .next u ∧ u.pc = s.pc + 2#16 ∧ u.host.syms = [] ∧ u.status = .running ∧
      (u.getV x).toNat = k.toNat ∧ u.dt.toNat = s.dt.toNat - 1 ∧ u.st.toNat = s.st.toNat - 1 ∧
      RegsExcept [x] s u ∧ Frame [.v, .pc, .dt, .st, .keys, .keyFeed] s u := by
  have hsym := h.supplied_syms sym
  obtain ⟨hr, hp, hd, hs⟩ := h
  have hexec := exec_ldVxK_mapped (s := (s.supplied sym).advance) (x := x) hsym hk
  refine ⟨_, step_decoded (s := s.supplied sym) hr hp hd hexec, endCycle_pc _, ?_, (endCycle_status _).trans hr,
    ?_, endCycle_dt_toNat hr, endCycle_st_toNat hr, fun r hne => ?_, ?_⟩
  · simp [hsym]
  · rw [endCycle_getV, State.getV_setV_self, BitVec.toNat_setWidth_of_le (by decide)]
  · rw [endCycle_getV, State.getV_setV_of_ne _ (by simpa using hne)]
    rfl
  · refine Frame.unlist (p := .syms) ?_ (by simp [Part.Same, hsym, hs])
    exact ((((s.supplied_frame sym).append (State.setPc_frame _ _)).append (State.afterSym_frame _)).append
      (State.setV_frame _ _ _)).append (endCycle_frame _) |>.mono (by simp)

/-- With a symbol outside the key table the key-wait faults, and no timer step follows (R165, R95). -/
theorem State.HeldInKeyWait.step_unmapped {sym : Byte} (hk : keyOf s.keymap sym = none) :
    ∃ u, step (s.supplied sym) = .next u ∧ u.pc = s.pc + 2#16 ∧ u.host.syms = [] ∧ u.status = .faulted ∧
      u.record = { cause := .unmappedKey, info := sym.setWidth 16, pc := s.pc } ∧
      Frame [.pc, .status, .record] s u := by
  have hsym := h.supplied_syms sym
  obtain ⟨hr, hp, hd, hs⟩ := h
  have hexec := exec_ldVxK_unmapped (s := (s.supplied sym).advance) (x := x) hsym hk
  have hpc0 : (s.supplied sym).advance.pc0 = s.pc := State.advance_pc0 _
  refine ⟨_, step_decoded (s := s.supplied sym) hr hp hd hexec, rfl, ?_, rfl,
    congrArg (FaultRecord.mk .unmappedKey (byteWord sym)) hpc0, ?_⟩
  · simp [hsym]
  · refine Frame.unlist (p := .syms) ?_ (by simp [Part.Same, hsym, hs])
    exact (((s.supplied_frame sym).append (State.setPc_frame _ _)).append (State.afterSym_frame _)).append
      (State.raise_frame _ _ _) |>.mono (by simp)

end

end Sys2Proof.Machine

open Sys2Proof Sys2Proof.Machine

/-- Settles O14: what the supplied symbol does, by whether the key table lists it. -/
theorem keyWaitHoldsUntilSymbol : Obligations.KeyWaitHoldsUntilSymbol := by
  intro s x h
  refine ⟨h.step_eq, run_of_fault h.step_eq, h.driveKeys, fun sym => ?_⟩
  cases hk : keyOf s.keymap sym with
  | some k =>
    obtain ⟨u, hstep, hpc, hsyms, hdone⟩ := h.step_mapped hk
    refine ⟨_, u, s.hostAct_supplySym sym, s.supplied_frame sym, hstep, hpc, hsyms, fun j hwf hj => ?_,
      fun hno => ?_⟩
    · obtain rfl : k = j := by simpa [hk] using keyOf_eq_some hwf.2 hj
      exact hdone
    · simp [keyOf_eq_none.2 hno] at hk
  | none =>
    obtain ⟨u, hstep, hpc, hsyms, hfault⟩ := h.step_unmapped hk
    refine ⟨_, u, s.hostAct_supplySym sym, s.supplied_frame sym, hstep, hpc, hsyms, fun j hwf hj => ?_,
      fun _ => hfault⟩
    simp [keyOf_eq_some hwf.2 hj] at hk
end

section
/-! PROOFS. The fetch in arithmetic and the faults of an access outside memory (spec/20_memory.md R50, R56, R57). -/

namespace Sys2Proof.Machine

section
variable (s : State)

/-- The word fetched: the byte at `PC` is its high byte, the next one its low byte (R50, R91). -/
theorem State.fetchWord_toNat :
    s.fetchWord.toNat = (s.mem.read s.pc.toNat).toNat * 256 + (s.mem.read (s.pc.toNat + 1)).toNat :=
  wordOfBytes_toNat _ _

/-- Raising a fault changes the status and the record, to the named fault, and nothing else (R166, R170). -/
theorem State.raiseAt_faultedWith (pc0 : Word) (cause : FaultCause) (info : Word) :
    FaultedWith cause info pc0 s (s.raiseAt pc0 cause info) :=
  ⟨rfl, rfl, by simp [frame_iff]⟩

end

/-- An instruction that would touch a byte above 4095 at `I` answers the range fault in place of its effect
(R56, R167). -/
theorem exec_of_touched_outside {i : Instr} {s : State} (hpos : 0 < touchedBytes s i)
    (hout : 4095 < s.i.toNat + touchedBytes s i - 1) : exec i s = .next s.raiseRange := by
  have hrange : ¬ inMemory s.i (touchedBytes s i) = true := by
    rw [inMemory_iff]
    omega
  cases i with
  | drw | ldB | storeRegs | loadRegs => exact congrArg _ (if_neg hrange)
  | _ => exact absurd hpos (Nat.lt_irrefl 0)

end Sys2Proof.Machine

open Sys2Proof Sys2Proof.Machine

/-- Settles O5: the value of the word made of the two bytes fetched. -/
theorem fetchIsBigEndian : Obligations.FetchIsBigEndian := State.fetchWord_toNat

/-- Settles O7: the step is the fetch fault. -/
theorem fetchBeyondMemoryFaults : Obligations.FetchBeyondMemoryFaults := fun s hr hp =>
  ⟨s.raiseFetch, step_outside hr hp, s.raiseAt_faultedWith s.pc .fetchOutOfRange s.pc⟩

/-- Settles O21: `m` is what the form touches at `I`, so one lemma over the instruction serves all four. -/
theorem accessBeyondMemoryFaults : Obligations.AccessBeyondMemoryFaults := by
  intro i s m hform hpos hout
  have hm : touchedBytes s i = m := by
    rcases hform with ⟨x, rfl, rfl⟩ | ⟨x, rfl, rfl⟩ | ⟨x, rfl, rfl⟩ | ⟨x, y, n, rfl, rfl⟩ <;> rfl
  subst hm
  exact ⟨s.raiseRange, exec_of_touched_outside hpos hout,
    s.raiseAt_faultedWith s.pc0 .memoryOutOfRange (firstOutside s.i)⟩
end

section
/-! PROOFS. The block store and the fetch of what it stored (spec/20_memory.md R63, spec/44_memory_index.md R134). -/

namespace Sys2Proof.Machine

section
variable {s : State} (h : s.i.toNat + 15 ≤ 4095)
include h

/-- Inside memory a block store writes all registers from `I` on and moves `I` by the profile (R134). -/
theorem exec_storeRegs_inside (x : Reg) :
    exec (.storeRegs x) s = .next (s.storeAtI s.v.toList).blockAdvance :=
  congrArg _ (if_pos ((inMemory_iff s.i 16).2 (by omega)))

/-- After all registers are stored at `I`, the byte at `I + k` is register `k` (R134). -/
theorem State.read_storeAtI_regs {k : Nat} (hk : k < 16) :
    (s.storeAtI s.v.toList).mem.read (s.i.toNat + k) = s.getV (BitVec.ofNat 4 k) := by
  have hlen : s.v.toList.length = 16 := s.v.length_toList
  rw [State.storeAtI_mem, Memory.read_writeBytes _ _ (by omega), if_pos (by omega), Nat.add_sub_cancel_left]
  simp [State.getV, hk, Nat.mod_eq_of_lt]

end

end Sys2Proof.Machine

open Sys2Proof Sys2Proof.Machine

/-- Settles O26: both bytes of the fetch lie inside the block. -/
theorem fetchSeesStores : Obligations.FetchSeesStores := by
  intro x s k hk h
  refine ⟨_, exec_storeRegs_inside h x, ?_⟩
  have hpc : (BitVec.ofNat 16 (s.i.toNat + k)).toNat = s.i.toNat + k :=
    (BitVec.toNat_ofNat _ _).trans (Nat.mod_eq_of_lt (by omega))
  rw [State.fetchWord_toNat, State.setPc_mem, State.setPc_pc, State.blockAdvance_mem, hpc, Nat.add_assoc,
    State.read_storeAtI_regs h (by omega), State.read_storeAtI_regs h (by omega)]
end

section
/-! PROOFS. The decoder's round trip (spec/30_encoding.md R71 to R80): the word of an instruction decodes to it,
and what decodes is the word of what it decodes to. -/

namespace Sys2Proof

/-! ## From an instruction to its word and back -/

/-- The word of a well-formed instruction decodes to it: its class selects the arm and its fields are the operands;
the one operand no field of its own holds is the register of JP V0,nnn, which the address determines (R72). -/
theorem decodeWord_encode {i : Instr} (h : i.wellFormed = true) : decodeWord (encode i) = .ok i := by
  cases i with
  | halt | cls | ret => rfl
  | jp | call | ldI => simp [encode, decodeWord, fieldOp_packNnn, fieldNnn_packNnn]
  | jpV0 nnn x =>
    obtain rfl : x = jumpRegField nnn := by simpa [Instr.wellFormed] using h
    simp [encode, decodeWord, fieldOp_packNnn, fieldNnn_packNnn, fieldX_packNnn]
  | seImm | sneImm | ldImm | addImm | rnd =>
    simp [encode, decodeWord, fieldOp_packXkk, fieldX_packXkk, fieldKk_packXkk]
  | seReg | sneReg | drw =>
    simp [encode, decodeWord, fieldOp_packXyn, fieldX_packXyn, fieldY_packXyn, fieldN_packXyn]
  | ldReg | orReg | andReg | xorReg | addReg | sub | shr | subn | shl =>
    simp [encode, decodeWord, decodeClass8, fieldOp_packXyn, fieldX_packXyn, fieldY_packXyn, fieldN_packXyn]
  | skp | sknp => simp [encode, decodeWord, decodeClassE, fieldOp_packXkk, fieldX_packXkk, fieldKk_packXkk]
  | ldVxDt | ldVxK | ldDtVx | ldStVx | addI | ldF | ldB | storeRegs | loadRegs =>
    simp [encode, decodeWord, decodeClassF, fieldOp_packXkk, fieldX_packXkk, fieldKk_packXkk]

/-! ## From a word to its instruction and back -/

section
variable {w : Word} {op : Nat} (hop : (fieldOp w).toNat = op)
include hop

/-- The class and the address are all bits of a word (R71, R72). -/
theorem packNnn_fields : packNnn op (fieldNnn w) = w := by
  rw [fieldOp_toNat] at hop
  refine BitVec.eq_of_toNat_eq ?_
  rw [packNnn_toNat (by omega), fieldNnn_toNat]
  omega

/-- The class, the register and the low byte are all bits of a word. -/
theorem packXkk_fields {kk : Byte} (hkk : (fieldKk w).toNat = kk.toNat) : packXkk op (fieldX w) kk = w := by
  rw [fieldOp_toNat] at hop
  rw [fieldKk_toNat] at hkk
  refine BitVec.eq_of_toNat_eq ?_
  rw [packXkk_toNat (by omega), fieldX_toNat]
  omega

/-- The class, both registers and the low nibble are all bits of a word. -/
theorem packXyn_fields {n : Count} (hn : (fieldN w).toNat = n.toNat) :
    packXyn op (fieldX w) (fieldY w) n = w := by
  rw [fieldOp_toNat] at hop
  rw [fieldN_toNat] at hn
  refine BitVec.eq_of_toNat_eq ?_
  rw [packXyn_toNat (by omega), fieldX_toNat, fieldY_toNat]
  omega

end

/-- The two fields of a jump with offset agree in every word. -/
theorem jumpRegField_fieldNnn (w : Word) : jumpRegField (fieldNnn w) = fieldX w :=
  BitVec.eq_of_toNat_eq (by rw [jumpRegField_toNat, fieldNnn_toNat, fieldX_toNat]; omega)

/-- What a decoder may answer for the word `w`: a well-formed instruction whose word it is, or that `w` is unknown. -/
def Answers (w : Word) : Except DecodeError Instr → Prop
  | .ok i => encode i = w ∧ i.wellFormed = true
  | .error e => e = .unknownOpcode w

theorem answers_decodeClass0 (w : Word) : Answers w (decodeClass0 w) := by
  unfold decodeClass0
  split_ifs with h h h
  · exact ⟨h.symm, rfl⟩
  · exact ⟨h.symm, rfl⟩
  · exact ⟨h.symm, rfl⟩
  · rfl

section
variable {w : Word}

theorem answers_decodeClass8 (hop : (fieldOp w).toNat = 0x8) : Answers w (decodeClass8 w) := by
  unfold decodeClass8
  split
  case h_10 => rfl
  all_goals next hn => exact ⟨packXyn_fields hop hn, rfl⟩

theorem answers_decodeClassE (hop : (fieldOp w).toNat = 0xE) : Answers w (decodeClassE w) := by
  unfold decodeClassE
  split
  case h_3 => rfl
  all_goals next hkk => exact ⟨packXkk_fields hop hkk, rfl⟩

theorem answers_decodeClassF (hop : (fieldOp w).toNat = 0xF) : Answers w (decodeClassF w) := by
  unfold decodeClassF
  split
  case h_10 => rfl
  all_goals next hkk => exact ⟨packXkk_fields hop hkk, rfl⟩

end

/-- The whole decoder, class by class (R74 to R80). -/
theorem answers_decodeWord (w : Word) : Answers w (decodeWord w) := by
  unfold decodeWord
  split <;> rename_i hop
  case h_1 => exact answers_decodeClass0 w
  case h_6 | h_10 =>
    split
    · next hn => exact ⟨packXyn_fields hop hn, rfl⟩
    · rfl
  case h_9 => exact answers_decodeClass8 hop
  case h_12 => exact ⟨packNnn_fields hop, beq_iff_eq.2 (jumpRegField_fieldNnn w).symm⟩
  case h_14 => exact ⟨packXyn_fields hop rfl, rfl⟩
  case h_15 => exact answers_decodeClassE hop
  case h_16 => exact answers_decodeClassF hop
  case h_17 => rfl
  case h_2 | h_3 | h_11 => exact ⟨packNnn_fields hop, rfl⟩
  case h_4 | h_5 | h_7 | h_8 | h_13 => exact ⟨packXkk_fields hop rfl, rfl⟩

section
variable {w : Word}

theorem encode_of_decodeWord {i : Instr} (h : decodeWord w = .ok i) : encode i = w ∧ i.wellFormed = true := by
  simpa only [h, Answers] using answers_decodeWord w

theorem decodeWord_error {e : DecodeError} (h : decodeWord w = .error e) : e = .unknownOpcode w := by
  simpa only [h, Answers] using answers_decodeWord w

end

end Sys2Proof

open Sys2Proof

/-- Settles O2, by the format of the instruction. -/
theorem decodeInvertsEncode : Obligations.DecodeInvertsEncode := fun _ => decodeWord_encode

/-- Settles O3: the fields of a word are all its bits. -/
theorem encodeInvertsDecode : Obligations.EncodeInvertsDecode := fun _ _ => encode_of_decodeWord

/-- Settles O1, by running the decoder on each of the words. -/
theorem decodesWordsOfTheSpec : Obligations.DecodesWordsOfTheSpec := by
  unfold Obligations.DecodesWordsOfTheSpec
  decide
end

section
/-! PROOFS. The decoder and the table of fixed bits (spec/30_encoding.md R74, R80, R85): a word matches a row of the
table exactly when it decodes to an instruction of that row. -/

namespace Sys2Proof

/-! ## The fields a row fixes -/

section
variable {w m v : Word} (h : w &&& m = v)
include h

/-- Where the mask keeps a field, a word that matches has the field of the match. -/
theorem extractLsb'_of_and {k n : Nat} (hm : m.extractLsb' k n = BitVec.allOnes n) :
    w.extractLsb' k n = v.extractLsb' k n := by
  rw [← h, BitVec.extractLsb'_and, hm, BitVec.and_allOnes]

theorem fieldOp_of_and (hm : fieldOp m = 0xF#4) : fieldOp w = fieldOp v := extractLsb'_of_and h hm
theorem fieldN_of_and (hm : fieldN m = 0xF#4) : fieldN w = fieldN v := extractLsb'_of_and h hm
theorem fieldKk_of_and (hm : fieldKk m = 0xFF#8) : fieldKk w = fieldKk v := extractLsb'_of_and h hm

end

/-- Every row fixes the class (R74). -/
theorem fieldOp_mask (i : Instr) : fieldOp (rowOf i).1 = 0xF#4 := by
  cases i <;> dsimp only [rowOf] <;> rfl

/-! ## The classes with a selector -/

section
variable {w : Word}

theorem decodeWord_of_class8 (h : fieldOp w = 0x8#4) : decodeWord w = decodeClass8 w := by
  rw [decodeWord, h]; rfl

theorem decodeWord_of_classE (h : fieldOp w = 0xE#4) : decodeWord w = decodeClassE w := by
  rw [decodeWord, h]; rfl

theorem decodeWord_of_classF (h : fieldOp w = 0xF#4) : decodeWord w = decodeClassF w := by
  rw [decodeWord, h]; rfl

end

/-- A word with the fixed bits of an instruction's row decodes to an instruction of that row: the bits the decoder
compares are the bits the row fixes (R74, R80). -/
theorem decodeWord_of_rowBits {w : Word} {i : Instr} (h : w &&& (rowOf i).1 = (rowOf i).2) :
    ∃ j, decodeWord w = .ok j ∧ rowOf j = rowOf i := by
  have hop : fieldOp w = fieldOp (rowOf i).2 := fieldOp_of_and h (fieldOp_mask i)
  cases i <;> dsimp only [rowOf] at h hop ⊢
  case halt | cls | ret =>
    obtain rfl := (and_FFFF w).symm.trans h
    exact ⟨_, rfl, rfl⟩
  case jp | call | ldI | jpV0 | seImm | sneImm | ldImm | addImm | rnd | drw =>
    rw [decodeWord, hop]
    exact ⟨_, rfl, rfl⟩
  case seReg | sneReg =>
    rw [decodeWord, hop, fieldN_of_and h rfl]
    exact ⟨_, rfl, rfl⟩
  case ldReg | orReg | andReg | xorReg | addReg | sub | shr | subn | shl =>
    rw [decodeWord_of_class8 hop, decodeClass8, fieldN_of_and h rfl]
    exact ⟨_, rfl, rfl⟩
  case skp | sknp =>
    rw [decodeWord_of_classE hop, decodeClassE, fieldKk_of_and h rfl]
    exact ⟨_, rfl, rfl⟩
  case ldVxDt | ldVxK | ldDtVx | ldStVx | addI | ldF | ldB | storeRegs | loadRegs =>
    rw [decodeWord_of_classF hop, decodeClassF, fieldKk_of_and h rfl]
    exact ⟨_, rfl, rfl⟩

/-! ## Rows and decoding -/

theorem matchesRow_iff {w : Word} {row : Word × Word} : matchesRow w row = true ↔ w &&& row.1 = row.2 :=
  beq_iff_eq

/-- The row of every instruction stands in the table. -/
theorem rowOf_mem (i : Instr) : rowOf i ∈ opcodeRows := by
  cases i <;> simp [opcodeRows, rowHeads, rowHeadsLow, rowHeads8, rowHeadsHigh, rowOf]

theorem opcodeRows_nodup : opcodeRows.Nodup := by decide

section
variable {w : Word}

/-- A word that decodes matches the row of its instruction, since it is the word of that instruction. -/
theorem matchesRow_of_decodeWord {i : Instr} (h : decodeWord w = .ok i) : matchesRow w (rowOf i) = true := by
  obtain ⟨rfl, -⟩ := encode_of_decodeWord h
  exact matchesRow_iff.2 (Laws.RowBits.all i)

/-- A word that matches a row of the table decodes to an instruction of that row. -/
theorem decodeWord_of_matchesRow {row : Word × Word} (hrow : row ∈ opcodeRows) (h : matchesRow w row = true) :
    ∃ i, decodeWord w = .ok i ∧ rowOf i = row := by
  obtain ⟨i, -, rfl⟩ := List.mem_map.1 hrow
  exact decodeWord_of_rowBits (matchesRow_iff.1 h)

/-- Two rows of the table that one word matches are the row of the instruction it decodes to (R74). -/
theorem matchesRow_unique {row row' : Word × Word} (hrow : row ∈ opcodeRows) (hrow' : row' ∈ opcodeRows)
    (h : matchesRow w row = true) (h' : matchesRow w row' = true) : row = row' := by
  obtain ⟨i, hi, rfl⟩ := decodeWord_of_matchesRow hrow h
  obtain ⟨j, hj, rfl⟩ := decodeWord_of_matchesRow hrow' h'
  rw [hi, Except.ok.injEq] at hj
  rw [hj]

/-- At most one row matches, since no row stands in the table twice. -/
theorem matchingRows_length_le_one : (opcodeRows.filter (matchesRow w)).length ≤ 1 := by
  rw [← List.toFinset_card_of_nodup (opcodeRows_nodup.filter _), Finset.card_le_one]
  intro row hrow row' hrow'
  rw [List.mem_toFinset, List.mem_filter] at hrow hrow'
  exact matchesRow_unique hrow.1 hrow'.1 hrow.2 hrow'.2

/-- No row matches exactly the unknown words (R80). -/
theorem no_row_matches_iff :
    (∀ row ∈ opcodeRows, matchesRow w row = false) ↔ decodeWord w = .error (.unknownOpcode w) := by
  constructor
  · intro hno
    cases hd : decodeWord w with
    | error e => rw [decodeWord_error hd]
    | ok i => simpa [matchesRow_of_decodeWord hd] using hno _ (rowOf_mem i)
  · intro hd row hrow
    refine Bool.eq_false_iff.2 fun h => ?_
    obtain ⟨i, hi, -⟩ := decodeWord_of_matchesRow hrow h
    simp [hi] at hd

end

end Sys2Proof

open Sys2Proof

/-- Settles O4: a row matches exactly when the word decodes to an instruction of that row, and the rows differ. -/
theorem decodeFollowsOpcodeTable : Obligations.DecodeFollowsOpcodeTable :=
  ⟨rfl, fun _ => ⟨matchingRows_length_le_one, fun i hi => ⟨matchesRow_of_decodeWord hi, rowOf_mem i⟩,
    no_row_matches_iff⟩⟩
end

section
/-! PROOFS. When a step exists, and what stops it when there is none (spec/40_cycle_driver.md R90, spec/10_state.md
R42, R45). -/

namespace Sys2Proof.Machine

/-- The execute phase answers a next state for all instructions but a key-wait without a symbol (R45, R166). -/
theorem exec_answers_next_iff {i : Instr} {s : State} :
    (∃ t, exec i s = .next t) ↔ waitsForSymbol i s = false := by
  refine ⟨fun ⟨t, ht⟩ => Bool.eq_false_iff.2 fun hw => ?_, exec_answers_next⟩
  rw [exec_of_waiting hw] at ht
  cases ht

/-- Only LD Vx,K waits, and only while the channel is empty (R142). -/
theorem waitsForSymbol_iff {i : Instr} {s : State} :
    waitsForSymbol i s = true ↔ (∃ x, i = .ldVxK x) ∧ s.host.syms = [] := by
  cases i <;> simp [waitsForSymbol]

/-- A `RUNNING` core outside a key-wait without a symbol has a step, a fatal condition being one too (R90, R166). -/
theorem step_answers_next {s : State} (hr : s.status = .running) (hw : ∀ x, ¬ s.HeldInKeyWait x) :
    ∃ t, step s = .next t := by
  by_cases hp : s.pc.toNat ≤ 4094
  · cases hd : decodeWord s.fetchWord with
    | error e => exact ⟨_, step_unknown hr hp hd⟩
    | ok i =>
      have hi : waitsForSymbol i s.advance = false := by
        rw [waitsForSymbol_advance, Bool.eq_false_iff, Ne, waitsForSymbol_iff]
        rintro ⟨⟨x, rfl⟩, hs⟩
        exact hw x ⟨hr, hp, hd, hs⟩
      obtain ⟨t, ht⟩ := exec_answers_next hi
      exact ⟨_, step_decoded hr hp hd ht⟩
  · exact ⟨_, step_outside hr (by omega)⟩

theorem step_of_halted {s : State} (h : s.status = .halted) : step s = .fault .coreHalted := by
  simp [step, h]

theorem step_of_faulted {s : State} (h : s.status = .faulted) : step s = .fault .coreFaulted := by
  simp [step, h]

/-- The four cases a core can be in, no two of them together, each with what its step answers. -/
theorem step_outcomes (s : State) :
    (s.status = .halted ∧ step s = .fault .coreHalted) ∨
    (s.status = .faulted ∧ step s = .fault .coreFaulted) ∨
    (s.status = .running ∧ (∃ x, s.HeldInKeyWait x) ∧ step s = .fault .awaitingSymbol) ∨
    (s.status = .running ∧ (∀ x, ¬ s.HeldInKeyWait x) ∧ ∃ t, step s = .next t) := by
  cases hr : s.status with
  | halted => exact .inl ⟨rfl, step_of_halted hr⟩
  | faulted => exact .inr (.inl ⟨rfl, step_of_faulted hr⟩)
  | running =>
    by_cases hw : ∃ x, s.HeldInKeyWait x
    · obtain ⟨x, hx⟩ := hw
      exact .inr (.inr (.inl ⟨rfl, ⟨x, hx⟩, hx.step_eq⟩))
    · have hno := not_exists.1 hw
      exact .inr (.inr (.inr ⟨rfl, hno, step_answers_next hr hno⟩))

/-- A core that has stopped does not stand in a key-wait (R42, R45). -/
theorem State.not_heldInKeyWait {s : State} (h : s.status ≠ .running) (x : Reg) : ¬ s.HeldInKeyWait x :=
  fun ⟨hr, _⟩ => h hr

end Sys2Proof.Machine

open Sys2Proof Sys2Proof.Machine

/-- Settles O10, in each of the four cases a core can be in. -/
theorem stepExistsUnlessStoppedOrWaiting : Obligations.StepExistsUnlessStoppedOrWaiting := by
  intro s
  rcases step_outcomes s with ⟨hr, hstep⟩ | ⟨hr, hstep⟩ | ⟨hr, hw, hstep⟩ | ⟨hr, hno, t, hstep⟩
  · simp [hr, hstep, State.not_heldInKeyWait, exec_answers_next_iff]
  · simp [hr, hstep, State.not_heldInKeyWait, exec_answers_next_iff]
  · simpa [hr, hstep, exec_answers_next_iff] using hw
  · simp [hr, hstep, hno, exec_answers_next_iff]
end

section
/-! PROOFS. The cycle of a decoded word, from its fetch to its end (spec/40_cycle_driver.md R90 to R95). -/

namespace Sys2Proof.Machine

section
variable {s t : State} {i : Instr}

/-- Two bytes that decode with nothing left over are a word that decodes. -/
theorem decodeWord_of_decodeBytes {hi lo : Byte} (h : decodeBytes [hi, lo] = .ok (i, [])) :
    decodeWord (wordOfBytes hi lo) = .ok i := by
  cases hd : decodeWord (wordOfBytes hi lo) with
  | ok j =>
    simp only [decodeBytes, hd] at h
    cases h
    rfl
  | error e =>
    simp only [decodeBytes, hd] at h
    cases h

/-- An instruction that may change the status writes no timer in its execute phase. -/
theorem timers_not_written (h : Part.status ∈ writtenParts i) :
    Part.dt ∉ writtenParts i ∧ Part.st ∉ writtenParts i := by
  cases i <;> simp [writtenParts] at h ⊢

/-- An execute phase that changes the status leaves the timers. -/
theorem exec_timers_of_status_ne (he : exec i s = .next t) (h : t.status ≠ s.status) :
    t.dt = s.dt ∧ t.st = s.st := by
  have hframe := exec_frame he
  have hmem : Part.status ∈ writtenParts i := by
    by_contra hno
    exact h (hframe .status hno)
  obtain ⟨hdt, hst⟩ := timers_not_written hmem
  exact ⟨hframe .dt hdt, hframe .st hst⟩

end

end Sys2Proof.Machine

open Sys2Proof Sys2Proof.Machine

/-- Settles O6, by whether the instruction waits for a symbol. -/
theorem stepRunsDecodedInstruction : Obligations.StepRunsDecodedInstruction := by
  intro s i hr hp hb
  have hd : decodeWord s.fetchWord = .ok i := decodeWord_of_decodeBytes hb
  constructor
  · intro hw
    exact ⟨exec_of_waiting (s := s.advance) (by rwa [waitsForSymbol_advance]), step_of_waiting hr hp hd hw⟩
  · intro hw
    obtain ⟨t, ht⟩ := exec_answers_next (s := s.advance) (by rwa [waitsForSymbol_advance])
    exact ⟨t, endCycle t, ht, step_decoded hr hp hd ht, endCycle_of_running, endCycle_of_stopped⟩

/-- Settles O11: the end of the cycle steps the timers its execute phase left. -/
theorem completedCycleStepsTimers : Obligations.CompletedCycleStepsTimers := fun _ t _ hr hp hd he ht =>
  ⟨endCycle t, step_decoded hr hp hd he, endCycle_dt_toNat ht, endCycle_st_toNat ht, endCycle_frame t⟩

/-- Settles O12: a fetch fault and an unknown word raise a fault and no more, and an execute phase that stops the
core has changed the status, so it left the timers. -/
theorem haltAndFaultKeepTimers : Obligations.HaltAndFaultKeepTimers := by
  intro s u hstep hu
  obtain ⟨hr, ⟨-, rfl⟩ | ⟨-, _, -, rfl⟩ | ⟨-, i, t, -, he, rfl⟩⟩ := step_cases hstep
  · exact ⟨rfl, rfl⟩
  · exact ⟨rfl, rfl⟩
  · rw [endCycle_status] at hu
    rw [endCycle_of_stopped hu]
    exact exec_timers_of_status_ne (s := s.advance) he (by simpa [hr] using hu)
end

section
/-! PROOFS. The program counter after a completed cycle (spec/40_cycle_driver.md R96). -/

namespace Sys2Proof.Machine

section
variable {i : Instr} {s t : State}

/-- A skip adds one instruction width exactly when its condition holds (R96, R103 to R106, R140, R141). -/
theorem exec_pc_of_skip (hi : isSkip i = true) (he : exec i s = .next t) :
    t.pc = bif skipCondition s i then s.pc + 2#16 else s.pc := by
  cases i with
  | seImm | seReg | sneImm | sneReg | skp | sknp => cases he; exact s.skipIf_pc _
  | _ => cases hi

/-- A transfer that does not fault loads its target: a call's is not the entry it pushes, a return's is the entry
below `SP` (R96, R100 to R102, R125). -/
theorem exec_pc_of_transfer (hi : isTransfer i = true) (he : exec i s = .next t) (ht : t.status = .running) :
    t.pc = loadedTarget s i := by
  cases i with
  | jp | jpV0 => cases he; rfl
  | call =>
    cases he
    revert ht
    split
    · exact fun _ => rfl
    · exact nofun
  | ret =>
    cases he
    revert ht
    split
    · next hpop =>
      intro _
      obtain ⟨hk, rfl⟩ := s.popPc_eq_some hpop
      have hlt : s.sp.val - 1 < s.stack.toList.length := by rw [Vector.length_toList]; omega
      rw [loadedTarget, List.getD_eq_getElem _ _ hlt]
      rfl
    · exact nofun
  | _ => cases hi

/-- Every other instruction leaves `PC` where the fetch put it (R96). -/
theorem exec_pc_of_plain (hs : isSkip i = false) (ht : isTransfer i = false) (he : exec i s = .next t) :
    t.pc = s.pc := by
  refine exec_frame he .pc ?_
  cases i with
  | seImm | seReg | sneImm | sneReg | skp | sknp => cases hs
  | jp | call | ret | jpV0 => cases ht
  | _ => simp [writtenParts]

/-- A skip's condition does not depend on the program counter. -/
@[simp] theorem skipCondition_advance (s : State) (i : Instr) : skipCondition s.advance i = skipCondition s i := by
  cases i <;> rfl

/-- A transfer's target does not depend on the program counter. -/
@[simp] theorem loadedTarget_advance (s : State) (i : Instr) : loadedTarget s.advance i = loadedTarget s i := by
  cases i <;> rfl

theorem isTransfer_eq_false_of_isSkip (h : isSkip i = true) : isTransfer i = false := by
  cases i with
  | seImm | seReg | sneImm | sneReg | skp | sknp => rfl
  | _ => cases h

/-- The `PC` law of an execute phase that ended done, from the advanced `PC` (R96). -/
theorem exec_advance_pc (he : exec i s.advance = .next t) (ht : t.status = .running) :
    t.pc = if isSkip i && skipCondition s i then s.pc + 4#16
      else if isTransfer i then loadedTarget s i else s.pc + 2#16 := by
  cases hs : isSkip i with
  | true =>
    have hpc := exec_pc_of_skip hs he
    rw [skipCondition_advance, State.advance_pc, BitVec.add_assoc] at hpc
    rw [hpc, isTransfer_eq_false_of_isSkip hs]
    cases skipCondition s i <;> rfl
  | false =>
    cases hj : isTransfer i with
    | true => simpa using exec_pc_of_transfer hj he ht
    | false => simpa using exec_pc_of_plain hs hj he

end

end Sys2Proof.Machine

open Sys2Proof Sys2Proof.Machine

/-- Settles O13: a step that leaves the core running ran its decoded instruction, and the end of the cycle does not
write `PC`. -/
theorem completedCycleMovesPc : Obligations.CompletedCycleMovesPc := by
  intro s u i hr hp hd hstep hu
  obtain ⟨-, ⟨-, rfl⟩ | ⟨-, _, -, rfl⟩ | ⟨-, j, t, hj, he, rfl⟩⟩ := step_cases hstep
  · cases hu
  · cases hu
  · obtain rfl : i = j := by simpa [hd] using hj
    rw [endCycle_status] at hu
    rw [endCycle_pc]
    exact exec_advance_pc he hu
end

section
/-! PROOFS. Which of the host's inputs an instruction reads (spec/00_scope.md R11, spec/40_cycle_driver.md R90). -/

namespace Sys2Proof.Machine

/-- The state under other inputs of the host, each made from those it has. -/
def State.mapHost (s : State) (f : HostInputs → HostInputs) : State := s.setHost (f s.host)

section
variable (s : State) (f : HostInputs → HostInputs)

theorem State.skipIf_mapHost (c : Bool) : (s.mapHost f).skipIf c = (s.skipIf c).mapHost f := by
  cases c <;> rfl

theorem State.pushPc_mapHost : (s.mapHost f).pushPc = s.pushPc.map (·.mapHost f) := by
  by_cases h : s.sp.val < 16
  · rw [State.pushPc_of_lt s h, State.pushPc_of_lt (s.mapHost f) h]; rfl
  · simp [State.pushPc, State.mapHost, h]

theorem State.popPc_mapHost : (s.mapHost f).popPc = s.popPc.map (·.mapHost f) := by
  by_cases h : 0 < s.sp.val
  · rw [State.popPc_of_pos s h, State.popPc_of_pos (s.mapHost f) h]; rfl
  · simp [State.popPc, State.mapHost, h]

theorem State.blockAdvance_mapHost : (s.mapHost f).blockAdvance = s.blockAdvance.mapHost f := by
  unfold State.blockAdvance
  rw [apply_ite (State.mapHost · f)]
  rfl

/-- The scan reads memory at `I` and no input of the host. -/
theorem State.composed_mapHost (x y : Reg) (n : Count) : (s.mapHost f).composed x y n = s.composed x y n :=
  scanRows_congr (s := s) (s' := s.mapHost f) (fun _ => rfl) _ _ _ _

end

/-- The change `f` of the host's inputs leaves alone what the instruction reads of them, and what it reads may be
consumed before or after the change (R36, R142, R126). -/
def Spares (f : HostInputs → HostInputs) : Instr → Prop
  | .skp _ | .sknp _ => ∀ h, (f h).keys = h.keys
  | .ldVxK _ => ∀ h, (f h).syms = h.syms ∧
      f { h with syms := h.syms.tail } = { f h with syms := (f h).syms.tail }
  | .rnd _ _ => ∀ h, (f h).rndFeed = h.rndFeed ∧ (f h).draws = h.draws ∧
      f { h with rndFeed := h.rndFeed.tail, draws := h.draws + 1 } =
        { f h with rndFeed := (f h).rndFeed.tail, draws := (f h).draws + 1 }
  | _ => True

section
variable {s t : State} {f : HostInputs → HostInputs}

theorem State.keyPressed_mapHost (h : (f s.host).keys = s.host.keys) (k : Byte) :
    (s.mapHost f).keyPressed k = s.keyPressed k :=
  congrArg (fun b : BitVec 16 => decide (k.toNat < 16) && b.getLsbD k.toNat) h

/-- Keys the change leaves alone decide SKP and SKNP as before. -/
theorem exec_skp_mapHost (x : Reg) (h : (f s.host).keys = s.host.keys) :
    exec (.skp x) (s.mapHost f) = .next ((s.skipIf (s.keyPressed (s.getV x))).mapHost f) := by
  rw [← State.skipIf_mapHost, ← State.keyPressed_mapHost h]; rfl

theorem exec_sknp_mapHost (x : Reg) (h : (f s.host).keys = s.host.keys) :
    exec (.sknp x) (s.mapHost f) = .next ((s.skipIf (!s.keyPressed (s.getV x))).mapHost f) := by
  rw [← State.skipIf_mapHost, ← State.keyPressed_mapHost h]; rfl

theorem State.rndByte_mapHost (hfeed : (f s.host).rndFeed = s.host.rndFeed)
    (hdraws : (f s.host).draws = s.host.draws) : (s.mapHost f).rndByte = s.rndByte := by
  have hh : (s.mapHost f).host = f s.host := rfl
  simp only [State.rndByte, hh, hfeed, hdraws]

/-- A draw the change leaves alone gives RND the byte it gave before. -/
theorem exec_rnd_mapHost (x : Reg) (kk : Byte) (hfeed : (f s.host).rndFeed = s.host.rndFeed)
    (hdraws : (f s.host).draws = s.host.draws) (hcomm : f s.afterDraw.host = (s.mapHost f).afterDraw.host) :
    exec (.rnd x kk) (s.mapHost f) = .next ((s.afterDraw.setV x (s.rndByte &&& kk)).mapHost f) := by
  have hdraw : (s.mapHost f).afterDraw = s.afterDraw.mapHost f := congrArg s.setHost hcomm.symm
  simp only [exec, execRnd, State.rndByte_mapHost hfeed hdraws, hdraw]
  rfl

theorem State.afterSym_mapHost (hcomm : f s.afterSym.host = (s.mapHost f).afterSym.host) :
    (s.mapHost f).afterSym = s.afterSym.mapHost f :=
  congrArg s.setHost hcomm.symm

/-- An instruction acts alike under a change of the host's inputs that spares those it reads (R11, R90). -/
theorem exec_mapHost {i : Instr} (hf : Spares f i) (he : exec i s = .next t) :
    exec i (s.mapHost f) = .next (t.mapHost f) := by
  cases i with
  | seImm | sneImm | seReg | sneReg => cases he; exact congrArg _ (s.skipIf_mapHost f _)
  | skp x => cases he; exact exec_skp_mapHost x (hf _)
  | sknp x => cases he; exact exec_sknp_mapHost x (hf _)
  | ret =>
    cases he
    simp only [exec, execRet, State.popPc_mapHost]
    cases s.popPc <;> rfl
  | call =>
    cases he
    simp only [exec, execCall, State.pushPc_mapHost]
    cases s.pushPc <;> rfl
  | rnd x kk =>
    cases he
    obtain ⟨hfeed, hdraws, hcomm⟩ := hf s.host
    exact exec_rnd_mapHost x kk hfeed hdraws hcomm
  | drw x y n =>
    cases he
    simp only [exec, execDrw, State.composed_mapHost]
    rw [apply_ite (State.mapHost · f)]
    rfl
  | addI | ldB =>
    cases he
    rw [apply_ite (State.mapHost · f)]
    rfl
  | storeRegs | loadRegs =>
    cases he
    rw [apply_ite (State.mapHost · f), ← State.blockAdvance_mapHost]
    rfl
  | ldVxK x =>
    obtain ⟨hsyms, hcomm⟩ := hf s.host
    obtain ⟨sym, rest, hs, ⟨k, hk, rfl⟩ | ⟨hk, rfl⟩⟩ := exec_ldVxK_cases he
    · rw [exec_ldVxK_mapped (s := s.mapHost f) (hsyms.trans hs) hk, State.afterSym_mapHost hcomm]; rfl
    · rw [exec_ldVxK_unmapped (s := s.mapHost f) (hsyms.trans hs) hk, State.afterSym_mapHost hcomm]; rfl
  | _ => cases he; rfl

end

/-! ## The three changes -/

section
variable {i : Instr}

theorem spares_keys (hi : ∀ x, i ≠ .skp x ∧ i ≠ .sknp x) (k : BitVec 16) :
    Spares (fun h => { h with keys := k }) i := by
  cases i with
  | skp x => exact absurd rfl (hi x).1
  | sknp x => exact absurd rfl (hi x).2
  | rnd => exact fun _ => ⟨rfl, rfl, rfl⟩
  | ldVxK => exact fun _ => ⟨rfl, rfl⟩
  | _ => trivial

theorem spares_syms (hi : ∀ x, i ≠ .ldVxK x) (l : List Byte) : Spares (fun h => { h with syms := l }) i := by
  cases i with
  | skp | sknp => exact fun _ => rfl
  | rnd => exact fun _ => ⟨rfl, rfl, rfl⟩
  | ldVxK x => exact absurd rfl (hi x)
  | _ => trivial

theorem spares_rnd (hi : ∀ x kk, i ≠ .rnd x kk) (l : List Byte) (n : Nat) :
    Spares (fun h => { h with rndFeed := l, draws := n }) i := by
  cases i with
  | skp | sknp => exact fun _ => rfl
  | rnd x kk => exact absurd rfl (hi x kk)
  | ldVxK => exact fun _ => ⟨rfl, rfl⟩
  | _ => trivial

end

end Sys2Proof.Machine

open Sys2Proof Sys2Proof.Machine

/-- Settles O24: each of the three changes spares what every other instruction reads. -/
theorem inputsReachOnlyTheirInstructions : Obligations.InputsReachOnlyTheirInstructions := fun _ _ _ he =>
  ⟨fun hi k => exec_mapHost (spares_keys hi k) he, fun hi l => exec_mapHost (spares_syms hi l) he,
    fun hi l n => exec_mapHost (spares_rnd hi l n) he⟩
end

section
/-! PROOFS. The control flow instructions: what each answers, and its frame (spec/41_control_flow.md R100 to R106). -/

namespace Sys2Proof.Machine

section
variable {s t : State}

/-- A call that finds room jumps from the state after the push (R101). -/
theorem exec_call_of_push {nnn : Addr} (ht : s.pushPc = some t) :
    exec (.call nnn) s = .next (t.setPc (addrWord nnn)) := by
  simp only [exec, execCall, ht]

/-- The pop at a stack whose topmost entry is entry `k` (R29, R102). -/
theorem State.popPc_of_top {k : Fin 16} (h : s.sp.val = k.val + 1) :
    s.popPc = some ((s.setStack s.stack k.castSucc).setPc s.stack[k]) := by
  rw [s.popPc_of_pos (by omega)]
  simp only [h, Nat.add_sub_cancel]
  rfl

theorem exec_ret_of_pop (ht : s.popPc = some t) : exec .ret s = .next t := by
  simp only [exec, execRet, ht]

/-- A return without a held address faults (R102, R164). -/
theorem exec_ret_of_empty (h : s.sp.val = 0) :
    exec .ret s = .next (s.raise .stackUnderflow (encode .ret)) := by
  simp only [exec, execRet, s.popPc_eq_none h]

/-- Every skip is the one shared operation, under its own condition (R96). -/
theorem exec_skip {i : Instr} (hi : isSkip i = true) : exec i s = .next (s.skipIf (skipCondition s i)) := by
  cases i with
  | seImm | seReg | sneImm | sneReg | skp | sknp => rfl
  | _ => cases hi

/-- What a skip does to the program counter, its condition given as a proposition, and its frame (R96). -/
theorem exec_skip_of_condition {i : Instr} (hi : isSkip i = true) {P : Prop} [Decidable P]
    (hc : skipCondition s i = true ↔ P) :
    ∃ t, exec i s = .next t ∧ t.pc = (if P then s.pc + 2#16 else s.pc) ∧ Frame [.pc] s t := by
  refine ⟨_, exec_skip hi, ?_, s.skipIf_frame _⟩
  simp only [State.skipIf_pc, cond_eq_ite, hc]

end

end Sys2Proof.Machine

open Sys2Proof Sys2Proof.Machine

/-- Settles O32: the target is the address operand, zero-extended. -/
theorem jumpLoadsTarget : Obligations.JumpLoadsTarget := fun nnn s =>
  ⟨s.setPc (addrWord nnn), rfl, addrWord_toNat nnn, s.setPc_frame _⟩

/-- Settles O33: below the limit the push answers, and the jump that follows it writes `PC` alone. -/
theorem callPushesReturnAddress : Obligations.CallPushesReturnAddress := by
  intro nnn s hsp
  have hpush := s.pushPc_of_lt hsp
  refine ⟨_, exec_call_of_push hpush, rfl, addrWord_toNat nnn, fun k => ?_, ?_⟩
  · simp [Vector.getElem_set, eq_comm]
  · exact ((s.pushPc_frame hpush).append (State.setPc_frame _ _)).mono (by simp)

/-- Settles O34, on both sides of the empty stack. -/
theorem returnPopsOrFaults : Obligations.ReturnPopsOrFaults := by
  refine ⟨rfl, fun s k hk => ?_, fun s h0 => ?_⟩
  · have hpop := State.popPc_of_top hk
    exact ⟨_, exec_ret_of_pop hpop, rfl, rfl, s.popPc_frame hpop⟩
  · exact ⟨_, exec_ret_of_empty h0, s.raiseAt_faultedWith s.pc0 .stackUnderflow (encode .ret), h0, rfl⟩

/-- Settles O35: each of the four conditions is an equality of two values or its negation. -/
theorem skipsCompareRegisters : Obligations.SkipsCompareRegisters := by
  intro x y kk s
  refine ⟨?seImm, ?sneImm, ?seReg, ?sneReg⟩
  case seImm => exact exec_skip_of_condition rfl (beq_iff_eq.trans BitVec.toNat_inj.symm)
  case seReg => exact exec_skip_of_condition rfl (beq_iff_eq.trans BitVec.toNat_inj.symm)
  case sneImm =>
    simpa only [ite_not] using
      exec_skip_of_condition (i := .sneImm x kk) rfl (bne_iff_ne.trans BitVec.toNat_inj.not.symm)
  case sneReg =>
    simpa only [ite_not] using
      exec_skip_of_condition (i := .sneReg x y) rfl (bne_iff_ne.trans BitVec.toNat_inj.not.symm)
end

section
/-! PROOFS. The arithmetic instructions: one write to `V[x]`, or a result and then its flag, with the values of both
(spec/42_arithmetic.md R110 to R122). -/

namespace Sys2Proof.Machine

/-! ## The written registers -/

section
variable (s : State)

theorem State.setV_regsExcept (x : Reg) (b : Byte) : RegsExcept [x] s (s.setV x b) := fun _ hr =>
  s.getV_setV_of_ne (List.ne_of_not_mem_cons hr) b

theorem State.setVWithFlag_regsExcept (x : Reg) (b f : Byte) :
    RegsExcept [x, regF] s (s.setVWithFlag x b f) := by
  intro r hr
  obtain ⟨hx, hF⟩ : r ≠ x ∧ r ≠ regF := by simpa using hr
  rw [s.getV_setVWithFlag, if_neg hF, if_neg hx]

variable {s}

/-- The instructions with a flag, given the two values they write: the flag stays for every destination, the result
for every destination but `VF` (R22, R122). -/
theorem exec_of_setVWithFlag {i : Instr} {x : Reg} {b f : Byte} {result flag : Nat}
    (he : exec i s = .next (s.setVWithFlag x b f)) (hf : f.toNat = flag) (hb : b.toNat = result) :
    ∃ t, exec i s = .next t ∧ (t.getV regF).toNat = flag ∧ (x ≠ regF → (t.getV x).toNat = result) ∧
      RegsExcept [x, regF] s t ∧ Frame [.v] s t := by
  refine ⟨_, he, ?_, fun hx => ?_, s.setVWithFlag_regsExcept x b f, s.setVWithFlag_frame x b f⟩
  · rw [s.getV_setVWithFlag_regF, hf]
  · rw [s.getV_setVWithFlag, if_neg hx, if_pos rfl, hb]

end

/-! ## Results and flags in arithmetic -/

theorem byte_sub_toNat (a b : Byte) : (a - b).toNat = (a.toNat + 256 - b.toNat) % 256 := by
  have := b.isLt
  rw [BitVec.toNat_sub]
  omega

theorem byte_shiftRight_one_toNat (a : Byte) : (a >>> 1).toNat = a.toNat / 2 := by
  rw [BitVec.toNat_ushiftRight, Nat.shiftRight_eq_div_pow, pow_one]

theorem byte_shiftLeft_one_toNat (a : Byte) : (a <<< 1).toNat = 2 * a.toNat % 256 := by
  rw [BitVec.toNat_shiftLeft, Nat.shiftLeft_eq, pow_one, mul_comm]

theorem carryFlag_toNat (a b : Byte) :
    (carryFlag a b).toNat = if 255 < a.toNat + b.toNat then 1 else 0 := by
  simp only [carryFlag, flagByte_toNat, decide_eq_true_eq]

theorem noBorrowFlag_toNat (a b : Byte) : (noBorrowFlag a b).toNat = if b.toNat ≤ a.toNat then 1 else 0 := by
  simp only [noBorrowFlag, flagByte_toNat, decide_eq_true_eq]

/-- A bit as a flag has the bit's value. -/
theorem flagByte_getLsbD_toNat (a : Byte) (k : Nat) : (flagByte (a.getLsbD k)).toNat = a.toNat / 2 ^ k % 2 := by
  rw [← Nat.toNat_testBit, ← BitVec.getLsbD]
  cases a.getLsbD k <;> rfl

theorem shrFlag_toNat (a : Byte) : (shrFlag a).toNat = a.toNat % 2 := by
  rw [shrFlag, flagByte_getLsbD_toNat, pow_zero, Nat.div_one]

/-- Bit 7 is the topmost bit of a byte. -/
theorem shlFlag_toNat (a : Byte) : (shlFlag a).toNat = a.toNat / 128 := by
  have := a.isLt
  rw [shlFlag, flagByte_getLsbD_toNat]
  omega

end Sys2Proof.Machine

open Sys2Proof Sys2Proof.Machine

/-- Settles O37: one write to `V[x]`. -/
theorem loadImmediateSetsRegister : Obligations.LoadImmediateSetsRegister := fun x kk s =>
  ⟨packXkk_toNat (by decide) x kk,
    s.setV x kk, rfl, s.getV_setV_self x kk, s.setV_regsExcept x kk, s.setV_frame x kk⟩

/-- Settles O38: the sum of two bytes is taken mod 256. -/
theorem addImmediateWraps : Obligations.AddImmediateWraps := by
  intro x kk s
  refine ⟨_, rfl, ?_, s.setV_regsExcept x _, s.setV_frame x _⟩
  rw [State.getV_setV_self, BitVec.toNat_add]

/-- Settles O39: each of the four is one write to `V[x]`, and the operators work bit by bit. -/
theorem moveAndBitwiseKeepFlag : Obligations.MoveAndBitwiseKeepFlag := by
  intro x y s
  refine ⟨⟨_, rfl, ?ld, s.setV_regsExcept x _, s.setV_frame x _⟩,
    ⟨_, rfl, fun k => ?or, s.setV_regsExcept x _, s.setV_frame x _⟩,
    ⟨_, rfl, fun k => ?and, s.setV_regsExcept x _, s.setV_frame x _⟩,
    ⟨_, rfl, fun k => ?xor, s.setV_regsExcept x _, s.setV_frame x _⟩⟩
  case ld => exact s.getV_setV_self x _
  case or => rw [State.getV_setV_self, BitVec.getLsbD_or]
  case and => rw [State.getV_setV_self, BitVec.getLsbD_and]
  case xor => rw [State.getV_setV_self, BitVec.getLsbD_xor]

/-- Settles O40: the carry is decided on the old values, and stays in `VF`. -/
theorem addRegisterSetsCarry : Obligations.AddRegisterSetsCarry := by
  intro x y s
  refine ⟨?word, exec_of_setVWithFlag rfl (carryFlag_toNat _ _) (BitVec.toNat_add _ _)⟩
  case word =>
    have hw : (encode (.addReg x y)).toNat = 0x8 * 0x1000 + x.toNat * 0x100 + y.toNat * 0x10 + 4 :=
      packXyn_toNat (by decide) x y 0x4#4
    omega

/-- Settles O41: one subtraction with the operands in either order. -/
theorem subtractionsSetNoBorrow : Obligations.SubtractionsSetNoBorrow := fun _ _ _ =>
  ⟨exec_of_setVWithFlag rfl (noBorrowFlag_toNat _ _) (byte_sub_toNat _ _),
    exec_of_setVWithFlag rfl (noBorrowFlag_toNat _ _) (byte_sub_toNat _ _)⟩

/-- Settles O42: `v` is the operand the profile selects, and both the result and the flag come from it. -/
theorem shiftsFollowProfile : Obligations.ShiftsFollowProfile := by
  rintro x y s v rfl
  exact ⟨exec_of_setVWithFlag rfl (shrFlag_toNat (s.shiftOperand x y)) (byte_shiftRight_one_toNat _),
    exec_of_setVWithFlag rfl (shlFlag_toNat (s.shiftOperand x y)) (byte_shiftLeft_one_toNat _)⟩
end

section
/-! PROOFS. The jump with a register offset, and the byte a RND draws (spec/43_jump_offset_random.md R125, R126). -/

namespace Sys2Proof.Machine

section
variable {s : State}

theorem State.rndByte_of_feed {b : Byte} {rest : List Byte} (h : s.host.rndFeed = b :: rest) : s.rndByte = b := by
  simp only [State.rndByte, h]

theorem State.rndByte_of_empty (h : s.host.rndFeed = []) : s.rndByte = Config.freeRnd s.host.draws := by
  simp only [State.rndByte, h]

theorem State.afterDraw_rndFeed {l : List Byte} (h : s.host.rndFeed = l) : s.afterDraw.host.rndFeed = l.tail :=
  congrArg List.tail h

end

end Sys2Proof.Machine

open Sys2Proof Sys2Proof.Machine

/-- Settles O36: the largest sum, `0xFFF + 0xFF`, fits in 16 bits. -/
theorem jumpWithOffsetAdds : Obligations.JumpWithOffsetAdds := fun nnn x s =>
  ⟨_, rfl, addrWord_add_byteWord_toNat nnn (s.jumpOffset x), s.setPc_frame _⟩

/-- Settles O43: the byte is `s.rndByte`, and the write to `V[x]` comes after the draw. -/
theorem randomByteIsMasked : Obligations.RandomByteIsMasked := by
  intro x kk s
  refine ⟨_, rfl, ⟨s.rndByte, fun k => ?masked, fun c rest hfeed => ?drawn, fun hempty => ?free⟩, rfl,
    s.afterDraw.setV_regsExcept x _, exec_frame (i := .rnd x kk) rfl⟩
  case masked => rw [State.getV_setV_self, BitVec.getLsbD_and]
  case drawn => exact ⟨State.rndByte_of_feed hfeed, State.afterDraw_rndFeed hfeed⟩
  case free => exact ⟨State.rndByte_of_empty hempty, State.afterDraw_rndFeed hempty⟩
end

section
/-! PROOFS. The index register and memory instructions (spec/44_memory_index.md R130 to R136): what each stores at
`I` or loads from it, and where `I` stands afterwards. -/

namespace Sys2Proof.Machine

/-! ## The index register -/

theorem byteWord_add_toNat (a : Word) (b : Byte) : (a + byteWord b).toNat = (a.toNat + b.toNat) % 65536 := by
  rw [BitVec.toNat_add, byteWord_toNat]

/-- The glyph address, five bytes for each value of the low nibble (R132). -/
theorem glyphAddress_toNat (b : Byte) : (byteWord (b &&& 0x0F#8) * 5#16).toNat = b.toNat % 16 * 5 := by
  have hnibble : (b &&& 0x0F#8).toNat = b.toNat % 16 :=
    (BitVec.toNat_and _ _).trans (Nat.and_two_pow_sub_one_eq_mod b.toNat 4)
  rw [BitVec.toNat_mul, byteWord_toNat, hnibble, BitVec.toNat_ofNat]
  omega

theorem carry12Flag_toNat (a : Word) (b : Byte) :
    (carry12Flag a b).toNat = if 0xFFF < a.toNat + b.toNat then 1 else 0 := by
  simp only [carry12Flag, flagByte_toNat, decide_eq_true_eq]

section
variable {s : State}

/-- Under `Q.addi_vf` the flag goes to `VF` after the sum (R131). -/
theorem exec_addI_of_addiVf (x : Reg) (hq : s.q.addiVf = true) :
    exec (.addI x) s =
      .next ((s.setI (s.i + byteWord (s.getV x))).setV regF (carry12Flag s.i (s.getV x))) :=
  congrArg _ (if_pos hq)

/-- Without `Q.addi_vf` the sum is the only write (R131). -/
theorem exec_addI_of_not_addiVf (x : Reg) (hq : s.q.addiVf = false) :
    exec (.addI x) s = .next (s.setI (s.i + byteWord (s.getV x))) :=
  congrArg _ (if_neg (by simp [hq]))

/-! ## Bytes stored at `I` -/

/-- Bytes stored at `I` inside memory read back in their order (R136). -/
theorem State.read_storeAtI {l : List Byte} (h : s.i.toNat + l.length ≤ 4096) {k : Nat} (hk : k < l.length) :
    (s.storeAtI l).mem.read (s.i.toNat + k) = l[k] := by
  rw [State.storeAtI_mem, Memory.read_writeBytes l _ h, if_pos (by omega), Nat.add_sub_cancel_left,
    List.getD_eq_getElem l 0 hk]

/-- A store at `I` leaves every byte before it and after it as it was. -/
theorem State.read_storeAtI_outside {l : List Byte} {a : Nat} (h : a < s.i.toNat ∨ s.i.toNat + l.length ≤ a) :
    (s.storeAtI l).mem.read a = s.mem.read a :=
  Memory.read_writeBytes_outside l s.mem h

theorem exec_ldB_inside (x : Reg) (h : s.i.toNat + 2 ≤ 4095) :
    exec (.ldB x) s = .next (s.storeAtI (decimalDigits (s.getV x))) :=
  congrArg _ (if_pos ((inMemory_iff s.i 3).2 (by omega)))

end

/-- Digit `k` of a byte, hundreds first, is its quotient by the digit's weight, mod 10 (R133). -/
theorem decimalDigits_getElem_toNat (b : Byte) : ∀ {k : Nat} (hk : k < (decimalDigits b).length),
    (decimalDigits b)[k].toNat = b.toNat / 10 ^ (2 - k) % 10
  | 0, _ => (BitVec.toNat_ofNat _ _).trans (by have := b.isLt; omega)
  | 1, _ => (BitVec.toNat_ofNat _ _).trans (by omega)
  | 2, _ => (BitVec.toNat_ofNat _ _).trans (by omega)

/-- The digits stored at `I`, each in arithmetic (R133). -/
theorem State.read_storeAtI_digit {s : State} (h : s.i.toNat + 2 ≤ 4095) (b : Byte) {k : Nat} (hk : k < 3) :
    ((s.storeAtI (decimalDigits b)).mem.read (s.i.toNat + k)).toNat = b.toNat / 10 ^ (2 - k) % 10 := by
  have hlen : (decimalDigits b).length = 3 := rfl
  rw [State.read_storeAtI (by omega) (hk.trans_eq hlen.symm), decimalDigits_getElem_toNat]

/-! ## The block transfers -/

section
variable {s : State} (h : s.i.toNat + 15 ≤ 4095)
include h

/-- The last block inside memory starts at 4080, so `I` does not wrap around when it advances (R134, R135). -/
theorem State.blockAdvance_i_toNat : s.blockAdvance.i.toNat = s.i.toNat + if s.q.blockInc then 16 else 0 := by
  rw [State.blockAdvance_i]
  cases s.q.blockInc with
  | false => rfl
  | true =>
    have hblock : (16#16).toNat = 16 := rfl
    exact BitVec.toNat_add_of_lt (by omega)

/-- Every register read back from its byte of the block, once all of them are stored (R134). -/
theorem State.read_storeAtI_reg (r : Reg) :
    (s.storeAtI s.v.toList).mem.read (s.i.toNat + r.toNat) = s.getV r := by
  rw [State.read_storeAtI_regs h r.isLt, BitVec.ofNat_toNat, BitVec.setWidth_eq]

/-- Inside memory a block load takes all registers from `I` on and moves `I` by the profile (R135). -/
theorem exec_loadRegs_inside (x : Reg) :
    exec (.loadRegs x) s =
      .next (s.setAllV (Vector.ofFn fun k : Fin 16 => s.readAtI k.val)).blockAdvance :=
  congrArg _ (if_pos ((inMemory_iff s.i 16).2 (by omega)))

end

/-- A register after the block at `I` is loaded: the byte at `I` plus its number (R135). -/
theorem State.getV_loadedBlock (s : State) (r : Reg) :
    (s.setAllV (Vector.ofFn fun k : Fin 16 => s.readAtI k.val)).getV r = s.mem.read (s.i.toNat + r.toNat) :=
  Vector.getElem_ofFn r.isLt

end Sys2Proof.Machine

open Sys2Proof Sys2Proof.Machine

/-- Settles O44: one write to `I` for each of the two. -/
theorem indexLoads : Obligations.IndexLoads :=
  ⟨fun nnn s => ⟨_, rfl, addrWord_toNat nnn, s.setI_frame _⟩,
    fun x s => ⟨_, rfl, glyphAddress_toNat (s.getV x), s.setI_frame _⟩⟩

/-- Settles O45, for either value of the profile bit; the sum is the same in both. -/
theorem addToIndexFollowsProfile : Obligations.AddToIndexFollowsProfile := by
  intro x s
  have hsum := byteWord_add_toNat s.i (s.getV x)
  cases hq : s.q.addiVf with
  | false =>
    have he := exec_addI_of_not_addiVf x hq
    exact ⟨_, he, hsum, fun _ => rfl, nofun, exec_frame he⟩
  | true =>
    have he := exec_addI_of_addiVf x hq
    refine ⟨_, he, hsum, nofun, fun _ => ⟨?_, State.setV_regsExcept _ regF _⟩, exec_frame he⟩
    rw [State.getV_setV_self, carry12Flag_toNat]

/-- Settles O46: the three stored bytes are the digits of `V[x]`, which arithmetic puts together again. -/
theorem decimalDigitsAreStored : Obligations.DecimalDigitsAreStored := by
  intro x s h
  have hv := (s.getV x).isLt
  have hundreds := State.read_storeAtI_digit h (s.getV x) (k := 0) (by decide)
  have tens := State.read_storeAtI_digit h (s.getV x) (k := 1) (by decide)
  have ones := State.read_storeAtI_digit h (s.getV x) (k := 2) (by decide)
  rw [Nat.add_zero] at hundreds
  refine ⟨_, exec_ldB_inside x h, ?hundreds, ?tens, ?ones, ?sum, fun a ha => ?outside, s.storeAtI_frame _⟩
  case outside => exact State.read_storeAtI_outside (ha.imp_right Nat.succ_le_of_lt)
  all_goals omega

/-- Settles O47: the block is stored first, and `I` moves after it. -/
theorem blockStoreWritesAllRegisters : Obligations.BlockStoreWritesAllRegisters := by
  intro x s h
  refine ⟨_, exec_storeRegs_inside h x, fun r => ?read, fun a ha => ?outside, State.blockAdvance_i_toNat h,
    (s.storeAtI_frame _).append (State.blockAdvance_frame _)⟩
  case read => rw [State.blockAdvance_mem, State.read_storeAtI_reg h]
  case outside =>
    have hlen : s.v.toList.length = 16 := s.v.length_toList
    rw [State.blockAdvance_mem, State.read_storeAtI_outside (by omega)]

/-- Settles O48: the registers are loaded first, and `I` moves after them. -/
theorem blockLoadReadsAllRegisters : Obligations.BlockLoadReadsAllRegisters := by
  intro x s h
  refine ⟨_, exec_loadRegs_inside h x, fun r => ?read, State.blockAdvance_i_toNat h,
    (s.setAllV_frame _).append (State.blockAdvance_frame _)⟩
  case read => rw [State.blockAdvance_getV, State.getV_loadedBlock]

/-- Settles O49: the load finds every register at its byte of the block, and `I` moves as it did after the store. -/
theorem blockRoundTrip : Obligations.BlockRoundTrip := by
  intro x y s t v h he
  rw [exec_storeRegs_inside h x] at he
  cases he
  have hload := exec_loadRegs_inside (s := ((s.storeAtI s.v.toList).blockAdvance.setAllV v).setI s.i) h y
  refine ⟨_, hload, (State.v_eq_iff_getV s _).2 fun r => ?registers, ?index⟩
  case registers =>
    rw [State.blockAdvance_getV, State.getV_loadedBlock, State.setI_mem, State.setAllV_mem,
      State.blockAdvance_mem, State.setI_i, State.read_storeAtI_reg h]
  case index =>
    simp only [State.blockAdvance_i, State.setAllV_i, State.setI_i, State.storeAtI_i, State.setAllV_q,
      State.setI_q, State.blockAdvance_q, State.storeAtI_q]
end

section
/-! PROOFS. The keypad instructions: two complementary skips, and a key-wait with a mapped symbol (spec/45_keypad.md
R140 to R142). -/

namespace Sys2Proof.Machine

section
variable (s : State)

/-- SKNP skips exactly where SKP does not (R140, R141). -/
theorem skipCondition_sknp (x : Reg) : skipCondition s (.sknp x) = !skipCondition s (.skp x) := rfl

variable {s}

theorem State.afterSym_syms {sym : Byte} {rest : List Byte} (h : s.host.syms = sym :: rest) :
    s.afterSym.host.syms = rest :=
  congrArg List.tail h

end

end Sys2Proof.Machine

open Sys2Proof Sys2Proof.Machine

/-- Settles O50: `p` is SKP's condition, and SKNP's is its negation. -/
theorem keypadSkips : Obligations.KeypadSkips := by
  intro x s p hp
  have hskp : skipCondition s (.skp x) = p := hp.symm
  refine ⟨?skp, ?sknp⟩
  case skp => exact exec_skip_of_condition rfl (by rw [hskp])
  case sknp =>
    have hsknp : skipCondition s (.sknp x) = true ↔ ¬ p = true := by
      rw [skipCondition_sknp, hskp, Bool.not_eq_true', Bool.not_eq_true]
    simpa only [ite_not] using exec_skip_of_condition rfl hsknp

/-- Settles O51: the table lists the symbol once, so its key is the one given; the write to `V[x]` comes after the
symbol is consumed. -/
theorem keyWaitMapsSymbol : Obligations.KeyWaitMapsSymbol := by
  rintro x s sym rest k ⟨-, hnodup⟩ hsyms hmem
  have hkey : keyOf s.keymap sym = some k := keyOf_eq_some hnodup hmem
  refine ⟨_, exec_ldVxK_mapped hsyms hkey, ?value, State.afterSym_syms hsyms,
    s.afterSym.setV_regsExcept x _, ?frame⟩
  case value => rw [State.getV_setV_self, BitVec.toNat_setWidth_of_le (by decide)]
  case frame => exact (s.afterSym_frame.append (State.setV_frame _ _ _)).mono (by simp)
end

section
/-! PROOFS. The timer copies: one write each, to `V[x]`, `DT` or `ST` (spec/46_timers.md R145 to R147). -/

open Sys2Proof Sys2Proof.Machine

/-- Settles O52: each answers with one write, whose value and frame are that write's own lemmas. -/
theorem timerInstructionsCopy : Obligations.TimerInstructionsCopy := by
  intro x s
  refine ⟨?readTimer, ?writeTimer, ?writeSound⟩
  case readTimer =>
    exact ⟨s.setV x s.dt, rfl, s.getV_setV_self x s.dt, s.setV_regsExcept x s.dt, s.setV_frame x s.dt⟩
  case writeTimer => exact ⟨s.setDt (s.getV x), rfl, s.setDt_dt (s.getV x), s.setDt_frame (s.getV x)⟩
  case writeSound => exact ⟨s.setSt (s.getV x), rfl, s.setSt_st (s.getV x), s.setSt_frame (s.getV x)⟩
end

section
/-! PROOFS. The snapshot of the display, and CLS (spec/47_display_system.md R150, R154). -/

namespace Sys2Proof.Machine

section
variable (s : State)

theorem State.snapshot_length : s.snapshot.length = 2048 := by
  rw [State.snapshot, List.length_map, List.length_range]

/-- Row by row: a pixel stands after the 64 of each row above it and those left of it (R35). -/
theorem State.snapshot_getElem? {x y : Nat} (hx : x < 64) (hy : y < 32) :
    s.snapshot[64 * y + x]? = some (pixelAt s.fb x y) := by
  have hcol : (64 * y + x) % 64 = x := by omega
  have hrow : (64 * y + x) / 64 = y := by omega
  rw [State.snapshot, List.getElem?_map, List.getElem?_range (by omega), Option.map_some, hcol, hrow]

/-- The snapshot holds pixels and nothing else. -/
theorem State.mem_snapshot {b : Bool} (h : b ∈ s.snapshot) : ∃ x y, pixelAt s.fb x y = b :=
  let ⟨k, _, hk⟩ := List.mem_map.1 h
  ⟨k % 64, k / 64, hk⟩

end

end Sys2Proof.Machine

open Sys2Proof Sys2Proof.Machine

/-- Settles O57, by the arithmetic of the index. -/
theorem snapshotIsRowMajor : Obligations.SnapshotIsRowMajor := fun s _ _ hx hy =>
  ⟨s.snapshot_length, s.snapshot_getElem? hx hy⟩

/-- Settles O53: one write to the surface. -/
theorem clearScreenDarkensAll : Obligations.ClearScreenDarkensAll := by
  refine fun s => ⟨_, rfl, pixelAt_blank, fun b hb => ?_, s.setFb_frame _⟩
  obtain ⟨px, py, rfl⟩ := State.mem_snapshot _ hb
  exact pixelAt_blank px py
end

section
/-! PROOFS. DRW: its scan is one exclusive or of the surface with the clipped sprite (spec/47_display_system.md R151
to R153). -/

namespace Sys2Proof.Machine

/-! ## The sprite -/

/-- `spriteBit` as a test, its row within the sprite cut out by `rowBit`. -/
def spriteLit (s : State) (ox oy rows px py : Nat) : Bool :=
  decide (oy ≤ py) && decide (py < oy + rows) && rowBit (s.readAtI (py - oy)) ox px

section
variable {s : State} {ox oy rows px py : Nat}

theorem spriteLit_iff : spriteLit s ox oy rows px py = true ↔ spriteBit s ox oy rows px py := by
  simp only [spriteLit, rowBit, spriteBit, State.readAtI, State.atI, Bool.and_eq_true, decide_eq_true_eq]
  tauto

/-- The sprite depends on the state through the bytes at `I` alone. -/
theorem spriteLit_congr {s' : State} (h : ∀ k, s'.readAtI k = s.readAtI k) :
    spriteLit s' ox oy rows px py = spriteLit s ox oy rows px py := by
  rw [spriteLit, spriteLit, h]

/-- One more row scanned is one more row of the sprite. -/
theorem spriteLit_succ : spriteLit s ox oy (rows + 1) px py =
    (spriteLit s ox oy rows px py ^^ (decide (py = oy + rows) && rowBit (s.readAtI rows) ox px)) := by
  by_cases h : py = oy + rows
  · subst h
    simp [spriteLit]
  · have hlt : py < oy + (rows + 1) ↔ py < oy + rows := by omega
    simp [spriteLit, h, hlt]

/-- A row that the scan has not reached holds no sprite bit. -/
theorem spriteLit_of_ge (h : oy + rows ≤ py) : spriteLit s ox oy rows px py = false := by
  simp [spriteLit, Nat.not_lt.2 h]

theorem spriteLit_zero : spriteLit s ox oy 0 px py = false := by
  simp [spriteLit]

theorem spriteLit_succ_iff : spriteLit s ox oy (rows + 1) px py = true ↔
    spriteLit s ox oy rows px py = true ∨ py = oy + rows ∧ rowBit (s.readAtI rows) ox px = true := by
  rw [spriteLit_succ]
  by_cases h : py = oy + rows
  · simp [h, spriteLit_of_ge]
  · simp [h]

end

/-! ## The scan -/

section
variable (b : Byte) {ox y : Nat} (hy : y < 32) (cv : Canvas)
include hy

theorem pixelAt_scanRow {px : Nat} (hpx : px < 64) (py : Nat) :
    pixelAt (Canvas.scanRow b ox y (List.range 8) cv).fb px py =
      (pixelAt cv.fb px py ^^ (decide (py = y) && rowBit b ox px)) := by
  obtain ⟨hpix, -⟩ := scanRow_spec b (ox := ox) hy 8 0 cv rfl
  rw [range_eight, hpix px py hpx]
  by_cases h : ox ≤ px <;> simp [rowBit, h]

theorem scanRow_hit : (Canvas.scanRow b ox y (List.range 8) cv).hit = true ↔
    cv.hit = true ∨ ∃ px, px < 64 ∧ rowBit b ox px = true ∧ pixelAt cv.fb px y = true := by
  obtain ⟨-, hhit⟩ := scanRow_spec b (ox := ox) hy 8 0 cv rfl
  rw [range_eight, hhit]
  refine or_congr_right (exists_congr fun px => and_congr_right fun _ => and_iff_right_of_imp ?_)
  rintro ⟨hbit, -⟩
  simp only [rowBit, Bool.and_eq_true, decide_eq_true_eq] at hbit
  obtain ⟨⟨hleft, -⟩, -⟩ := hbit
  exact hleft

end

theorem scanRows_append (s : State) (ox oy : Nat) (rs rs' : List Nat) (cv : Canvas) :
    Canvas.scanRows s ox oy (rs ++ rs') cv = Canvas.scanRows s ox oy rs' (Canvas.scanRows s ox oy rs cv) := by
  induction rs generalizing cv with
  | nil => rfl
  | cons r rs ih => exact ih _

/-- The rows up to the next one are scanned before it. -/
theorem scanRows_succ (s : State) (ox oy m : Nat) (cv : Canvas) :
    Canvas.scanRows s ox oy (List.range (m + 1)) cv =
      Canvas.scanRow (s.readAtI m) ox (oy + m) (List.range 8) (Canvas.scanRows s ox oy (List.range m) cv) := by
  rw [List.range_succ, scanRows_append]
  rfl

section
variable (s : State) (ox : Nat) {oy : Nat} (cv : Canvas)

/-- The scan inside the grid is the exclusive or of the surface with the sprite (R152). -/
theorem pixelAt_scanRows {m : Nat} (hm : oy + m ≤ 32) {px : Nat} (hpx : px < 64) (py : Nat) :
    pixelAt (Canvas.scanRows s ox oy (List.range m) cv).fb px py =
      (pixelAt cv.fb px py ^^ spriteLit s ox oy m px py) := by
  induction m with
  | zero =>
    rw [spriteLit_zero, Bool.xor_false]
    rfl
  | succ m ih =>
    rw [scanRows_succ, pixelAt_scanRow _ (by omega) _ hpx, ih (by omega), spriteLit_succ, Bool.xor_assoc]

/-- The flag after a scan: no row is scanned twice, so the pixels met are those the scan began with (R152). -/
theorem scanRows_hit {m : Nat} (hm : oy + m ≤ 32) :
    (Canvas.scanRows s ox oy (List.range m) cv).hit = true ↔
      cv.hit = true ∨ ∃ px py, px < 64 ∧ spriteLit s ox oy m px py = true ∧ pixelAt cv.fb px py = true := by
  induction m with
  | zero =>
    simp only [spriteLit_zero, Bool.false_eq_true, false_and, and_false, exists_false, or_false]
    rfl
  | succ m ih =>
    have hrow {px : Nat} (hpx : px < 64) : pixelAt (Canvas.scanRows s ox oy (List.range m) cv).fb px (oy + m) =
        pixelAt cv.fb px (oy + m) := by
      rw [pixelAt_scanRows s ox cv (by omega) hpx, spriteLit_of_ge (le_refl _), Bool.xor_false]
    rw [scanRows_succ, scanRow_hit _ (by omega), ih (by omega)]
    constructor
    · rintro ((h | ⟨px, py, hpx, hbit, hlit⟩) | ⟨px, hpx, hbit, hlit⟩)
      · exact .inl h
      · exact .inr ⟨px, py, hpx, spriteLit_succ_iff.2 (.inl hbit), hlit⟩
      · exact .inr ⟨px, oy + m, hpx, spriteLit_succ_iff.2 (.inr ⟨rfl, hbit⟩), (hrow hpx).symm.trans hlit⟩
    · rintro (h | ⟨px, py, hpx, hbit, hlit⟩)
      · exact .inl (.inl h)
      · rcases spriteLit_succ_iff.1 hbit with hold | ⟨rfl, hnew⟩
        · exact .inl (.inr ⟨px, py, hpx, hold, hlit⟩)
        · exact .inr ⟨px, hpx, hnew, (hrow hpx).trans hlit⟩

end

/-! ## DRW -/

/-- The bit that the sprite of a DRW, clipped at both edges, lands on a pixel. -/
def State.drawnBit (s : State) (x y : Reg) (n : Count) (px py : Nat) : Bool :=
  decide (px < 64) && spriteLit s (s.originX x) (s.originY y) (s.scannedRows y n) px py

/-- The state after a DRW whose sprite lies inside memory. -/
def State.drawn (s : State) (x y : Reg) (n : Count) : State :=
  (s.setFb (s.composed x y n).fb).setV regF (flagByte (s.composed x y n).hit)

theorem flagByte_eq_one {b : Bool} : flagByte b = 1 ↔ b = true := by cases b <;> decide
theorem flagByte_eq_zero {b : Bool} : flagByte b = 0 ↔ b = false := by cases b <;> decide

section
variable (s : State) (x y : Reg) (n : Count)

/-- The scanned rows end at the bottom edge (R152). -/
theorem State.originY_add_scannedRows_le : s.originY y + s.scannedRows y n ≤ 32 := by
  unfold State.scannedRows State.originY
  omega

/-- A sprite bit lands above the bottom edge. -/
theorem State.spriteBit_row_lt {px py : Nat}
    (h : spriteBit s (s.originX x) (s.originY y) (s.scannedRows y n) px py) : py < 32 :=
  let ⟨_, _, _, hbottom, _⟩ := h
  Nat.lt_of_lt_of_le hbottom (s.originY_add_scannedRows_le y n)

theorem State.drawnBit_iff {px py : Nat} : s.drawnBit x y n px py = true ↔
    px < 64 ∧ spriteBit s (s.originX x) (s.originY y) (s.scannedRows y n) px py := by
  rw [State.drawnBit, Bool.and_eq_true, decide_eq_true_eq, spriteLit_iff]

theorem State.pixelAt_drawn (px py : Nat) :
    pixelAt (s.drawn x y n).fb px py = (pixelAt s.fb px py ^^ s.drawnBit x y n px py) := by
  by_cases hpx : px < 64
  · rw [State.drawnBit, decide_eq_true hpx, Bool.true_and]
    exact pixelAt_scanRows s _ { fb := s.fb, hit := false } (s.originY_add_scannedRows_le y n) hpx py
  · rw [State.drawnBit, decide_eq_false hpx, pixelAt_outside _ (.inl (by omega)),
      pixelAt_outside _ (.inl (by omega))]
    rfl

/-- The scan of a DRW collides exactly when a sprite bit met a lit pixel (R151). -/
theorem State.composed_hit : (s.composed x y n).hit = true ↔
    ∃ px py, s.drawnBit x y n px py = true ∧ pixelAt s.fb px py = true := by
  rw [State.composed, scanRows_hit s _ _ (s.originY_add_scannedRows_le y n)]
  simp only [Bool.false_eq_true, false_or, State.drawnBit, Bool.and_eq_true, decide_eq_true_eq, and_assoc]

theorem State.drawn_flag_eq_one : (s.drawn x y n).getV regF = 1 ↔
    ∃ px py, s.drawnBit x y n px py = true ∧ pixelAt s.fb px py = true := by
  rw [State.drawn, State.getV_setV_self, flagByte_eq_one, State.composed_hit]

theorem State.drawn_flag_eq_zero : (s.drawn x y n).getV regF = 0 ↔
    ∀ px py, s.drawnBit x y n px py = true → pixelAt s.fb px py = false := by
  rw [State.drawn, State.getV_setV_self, flagByte_eq_zero, ← Bool.not_eq_true, State.composed_hit]
  simp only [not_exists, not_and, Bool.not_eq_true]

theorem State.drawn_regsExcept : RegsExcept [regF] s (s.drawn x y n) :=
  (s.setFb _).setV_regsExcept regF _

theorem State.drawn_frame : Frame [.v, .fb] s (s.drawn x y n) :=
  ((s.setFb_frame _).append (State.setV_frame _ _ _)).mono (by simp)

variable {s x y n}

theorem exec_drw_inside (h : inMemory s.i (s.scannedRows y n) = true) :
    exec (.drw x y n) s = .next (s.drawn x y n) :=
  congrArg _ (if_pos h)

/-- Everything a DRW can have done: the draw, or the range fault (R152, R167). -/
theorem exec_drw_cases {t : State} (he : exec (.drw x y n) s = .next t) :
    (inMemory s.i (s.scannedRows y n) = true ∧ t = s.drawn x y n) ∨ t = s.raiseRange := by
  by_cases h : inMemory s.i (s.scannedRows y n) = true
  · rw [exec_drw_inside h] at he
    cases he
    exact .inl ⟨h, rfl⟩
  · cases he
    exact .inr (if_neg h)

/-- A DRW that leaves the core running has drawn. -/
theorem exec_drw_of_running {t : State} (he : exec (.drw x y n) s = .next t) (ht : t.status = .running) :
    inMemory s.i (s.scannedRows y n) = true ∧ t = s.drawn x y n := by
  obtain hdraw | rfl := exec_drw_cases he
  · exact hdraw
  · cases ht

end

section
variable {s s' : State} {x y x' y' : Reg} (hx : s'.originX x' = s.originX x) (hy : s'.originY y' = s.originY y)
include hy

theorem State.scannedRows_congr (n : Count) : s'.scannedRows y' n = s.scannedRows y n := by
  rw [State.scannedRows, State.scannedRows, hy]

include hx

/-- Draws at one origin, with the same bytes at `I`, land the same bits. -/
theorem State.drawnBit_congr (hread : ∀ k, s'.readAtI k = s.readAtI k) (n : Count) (px py : Nat) :
    s'.drawnBit x' y' n px py = s.drawnBit x y n px py := by
  rw [State.drawnBit, State.drawnBit, hx, hy, State.scannedRows_congr hy, spriteLit_congr hread]

end

end Sys2Proof.Machine

open Sys2Proof Sys2Proof.Machine

/-- Settles O54: the scan is an exclusive or with the sprite. -/
theorem drawXorsSprite : Obligations.DrawXorsSprite := by
  intro x y n s ox oy rows hox hoy hrows hrange
  obtain rfl : ox = s.originX x := hox
  obtain rfl : oy = s.originY y := hoy
  obtain rfl : rows = s.scannedRows y n := hrows
  refine ⟨_, exec_drw_inside ((inMemory_iff _ _).2 ?range), fun px py hpx _ => ?pixel, ?met, ?missed,
    s.drawn_regsExcept x y n, s.drawn_frame x y n⟩
  case range => omega
  case pixel =>
    have hbit := s.drawnBit_iff x y n (px := px) (py := py)
    rw [and_iff_right hpx] at hbit
    rw [s.pixelAt_drawn, Bool.xor_iff_ne, Ne, Bool.eq_iff_iff, hbit]
  case met =>
    rintro ⟨px, py, hpx, -, hsprite, hlit⟩
    exact (s.drawn_flag_eq_one x y n).2 ⟨px, py, (s.drawnBit_iff x y n).2 ⟨hpx, hsprite⟩, hlit⟩
  case missed =>
    refine fun hdark => (s.drawn_flag_eq_zero x y n).2 fun px py hbit => ?_
    obtain ⟨hpx, hsprite⟩ := (s.drawnBit_iff x y n).1 hbit
    exact hdark px py hpx (s.spriteBit_row_lt x y n hsprite) hsprite

/-- Settles O55: the second draw lands the bits of the first. -/
theorem drawTwiceRestores : Obligations.DrawTwiceRestores := by
  intro x y x2 y2 n s t s2 he _ ht hfb hi hmem hx hy
  obtain ⟨hrange, rfl⟩ := exec_drw_of_running he ht
  have hrows : s2.scannedRows y2 n = s.scannedRows y n := State.scannedRows_congr hy n
  have hread (k : Nat) : s2.readAtI k = s.readAtI k := by
    simp only [State.readAtI, State.atI, hi, hmem]
  have hbits := State.drawnBit_congr hx hy hread n
  refine ⟨_, exec_drw_inside (by rw [hrows, hi, hrange]), fb_eq_of_pixels fun px py _ _ => ?restored, ?flag⟩
  case restored =>
    rw [s2.pixelAt_drawn, hfb, s.pixelAt_drawn, hbits, Bool.xor_assoc, Bool.xor_self, Bool.xor_false]
  case flag =>
    rw [s2.drawn_flag_eq_one]
    refine exists_congr fun px => exists_congr fun py => ?_
    rw [hfb, hbits, s.pixelAt_drawn]
    cases pixelAt s.fb px py <;> simp

/-- Settles O56: a pixel that changed is one the sprite landed a bit on. -/
theorem drawStaysInRectangle : Obligations.DrawStaysInRectangle := by
  intro x y n s t _ he
  refine ⟨fun px py hne => ?changed, fun hblank ht => ?blank⟩
  case changed =>
    obtain ⟨-, rfl⟩ | rfl := exec_drw_cases he
    · have hbit : s.drawnBit x y n px py = true := by
        by_contra hoff
        exact hne (by rw [s.pixelAt_drawn, Bool.eq_false_iff.2 hoff, Bool.xor_false])
      obtain ⟨hpx, hleft, hright, htop, hbottom, -⟩ := (s.drawnBit_iff x y n).1 hbit
      simp only [State.originX, State.scannedRows, State.originY] at hleft hright htop hbottom
      omega
    · exact absurd rfl hne
  case blank =>
    obtain ⟨-, rfl⟩ := exec_drw_of_running he ht
    exact (s.drawn_flag_eq_zero x y n).2 fun px py _ => hblank px py
end

section
/-! PROOFS. The two ends of a run: the word 0x0000 halts, and a word that matches no row faults
(spec/47_display_system.md R156, R157). -/

namespace Sys2Proof.Machine

section
variable {s : State}

/-- The unknown words that the spec lists do not decode (R157). -/
theorem decodeWord_listed : ∀ w ∈ [0x8128#16, 0x5121#16, 0xE100#16, 0xF1FF#16, 0x0123#16, 0x00E1#16],
    decodeWord w = .error (.unknownOpcode w) := by
  simp only [List.forall_mem_cons]
  exact ⟨rfl, rfl, rfl, rfl, rfl, rfl, nofun⟩

/-- The step of a word that matches no row raises the fault at the address it was fetched from (R157). -/
theorem step_of_no_row (hr : s.status = .running) (hp : s.pc.toNat ≤ 4094)
    (hno : ∀ row ∈ opcodeRows, matchesRow s.fetchWord row = false) :
    step s = .next (s.advance.raiseAt s.pc .unknownOpcode s.fetchWord) := by
  rw [step_unknown hr hp (no_row_matches_iff.1 hno), State.raiseUnknown, State.raise, State.advance_pc0]

/-- The step of the word 0x0000 halts after the fetch, and nothing follows in that cycle (R95, R156). -/
theorem step_of_word_zero (hr : s.status = .running) (hp : s.pc.toNat ≤ 4094) (hw : s.fetchWord = 0x0000#16) :
    step s = .next s.advance.halt := by
  have hd : decodeWord s.fetchWord = .ok .halt := by rw [hw]; rfl
  rw [step_decoded hr hp hd rfl, endCycle_of_stopped (by simp)]

end

end Sys2Proof.Machine

open Sys2Proof Sys2Proof.Machine

/-- Settles O8: the fault comes after the fetch has moved `PC`, and a word no row matches is one that does not
decode. -/
theorem unknownWordFaults : Obligations.UnknownWordFaults := by
  refine ⟨fun s hr hp hno => ⟨_, step_of_no_row hr hp hno, rfl, rfl, rfl, ?frame, rfl⟩,
    fun w hw => no_row_matches_iff.2 (decodeWord_listed w hw)⟩
  case frame =>
    obtain ⟨-, -, hraise⟩ := s.advance.raiseAt_faultedWith s.pc .unknownOpcode s.fetchWord
    exact (s.setPc_frame _).append hraise

/-- Settles O15: the halt comes after the fetch has moved `PC`. -/
theorem haltStopsGracefully : Obligations.HaltStopsGracefully :=
  ⟨rfl, fun s => ⟨s.halt, rfl, rfl, s.halt_frame⟩, fun s hr hp hw =>
    ⟨s.advance.halt, step_of_word_zero hr hp hw, rfl, rfl, (s.setPc_frame _).append (State.halt_frame _), rfl,
      step_of_halted rfl⟩⟩
end

section
/-! PROOFS. Reset: what a launch loads, and that the default launch is the reset state (spec/70_reset_and_hazards.md
R190 to R193). -/

namespace Sys2Proof.Machine

section
variable {a : LaunchArgs}

/-- A ROM that fits is launched: the reset state with memory and the host's arguments in place (R190, R191). -/
theorem launch_of_fits (h : a.rom.length ≤ 3584) :
    launch a = some { State.reset with
      mem := bootMemory a.font.toList a.rom, q := a.q, keymap := a.keymap, host := a.host, stack := a.stack } :=
  if_pos h

/-- A ROM above the limit is rejected (R193). -/
theorem launch_of_oversized (h : 3584 < a.rom.length) : launch a = none := if_neg (Nat.not_le_of_gt h)

end

theorem unlisted_of_ge {k : Nat} (h : 80 ≤ k) : unlisted k = 0 := List.getD_eq_default defaultFont 0 h

theorem unlisted_of_lt {k : Nat} (h : k < 80) : unlisted k = defaultFont[k]'h := List.getD_eq_getElem defaultFont 0 h

/-- Memory after a launch: the ROM from 0x200 on, the given font below 80 whatever an unlisted address reads as, and 0
elsewhere (R40, R191). -/
theorem read_bootMemory {font rom : List Byte} (hfont : font.length = 80) (hrom : rom.length ≤ 3584) (k : Nat) :
    (bootMemory font rom).read k =
      if 0x200 ≤ k ∧ k < 0x200 + rom.length then rom.getD (k - 0x200) 0
      else if k < 80 then font.getD k 0 else 0 := by
  rw [bootMemory, Memory.read_writeBytes rom _ (by simp only [Config.loadAddr]; omega),
    Memory.read_writeBytes font _ (by omega), Memory.read_nil]
  simp only [Config.loadAddr, hfont, Nat.zero_le, true_and, Nat.zero_add, Nat.sub_zero]
  by_cases hk : k < 80
  · simp only [if_pos hk]
  · simp only [if_neg hk, unlisted_of_ge (Nat.le_of_not_lt hk)]

/-- The default font and the empty ROM leave memory listing nothing: each byte written reads so already. -/
theorem bootMemory_default : bootMemory defaultArgs.font.toList defaultArgs.rom = [] := by
  have hfont : Memory.writeBytes [] 0 defaultArgs.font.toList = [] :=
    writeBytes_unlisted _ 0 fun k hk => by simp [defaultArgs, unlisted]
  rw [bootMemory, hfont]
  rfl

theorem launch_defaultArgs : launch defaultArgs = some State.reset := by
  rw [launch_of_fits (by decide), bootMemory_default]
  rfl

end Sys2Proof.Machine

open Sys2Proof Sys2Proof.Machine

/-- Settles O27: the reset state is a launch, with a total key table. -/
theorem resetMeetsInvariant : Obligations.ResetMeetsInvariant := launch_inv launch_defaultArgs (by decide)

/-- Settles O30: every field is written out, the display is blank, and a memory that lists nothing reads as the
font and zeros. -/
theorem resetValues : Obligations.ResetValues :=
  ⟨rfl, rfl, fun r => Vector.getElem_replicate r.isLt, rfl, rfl, rfl, pixelAt_blank, rfl, rfl,
    fun _ => unlisted_of_ge, fun _ => unlisted_of_lt⟩

/-- Settles O31: a launch below and above the limit, and the default one, whose memory holds the word 0x0000 at
0x200. -/
theorem launchLoadsFontAndRom : Obligations.LaunchLoadsFontAndRom := by
  refine ⟨fun _ => launch_of_oversized, fun a hrom => ?_, launch_defaultArgs, ?_⟩
  · exact ⟨_, launch_of_fits hrom, rfl, rfl, rfl, rfl, read_bootMemory a.font.length_toList hrom⟩
  · exact ⟨_, step_of_word_zero rfl (by decide) rfl, rfl⟩
end

section
/-! PROOFS. Faults: the fatal conditions of the execute phase, each with what it leaves, and that only a reset leaves
FAULTED (spec/60_exceptions.md R161 to R173). -/

namespace Sys2Proof.Machine

/-- The fatal conditions of the execute phase: the instruction, what holds of the state it runs in, and the state
it leaves (R161, R163 to R165, R167). -/
inductive ExecFault : Instr → State → State → Prop
  /-- CALL with 16 return addresses held (R163). -/
  | stackOverflow {s : State} {nnn : Addr} (hsp : s.sp.val = 16) :
      ExecFault (.call nnn) s (s.raise .stackOverflow (encode (.call nnn)))
  /-- RET with none held (R164). -/
  | stackUnderflow {s : State} (hsp : s.sp.val = 0) :
      ExecFault .ret s (s.raise .stackUnderflow (encode .ret))
  /-- LD Vx,K with a symbol that the key table does not list; the symbol is consumed (R165). -/
  | unmappedKey {s : State} {x : Reg} {sym : Byte} {rest : List Byte} (hsyms : s.host.syms = sym :: rest)
      (hkey : keyOf s.keymap sym = none) :
      ExecFault (.ldVxK x) s (s.afterSym.raise .unmappedKey (byteWord sym))
  /-- Bytes touched at `I` above address 4095 (R56, R167). -/
  | memoryOutOfRange {i : Instr} {s : State} (hpos : 0 < touchedBytes s i)
      (hout : 4095 < s.i.toNat + touchedBytes s i - 1) : ExecFault i s s.raiseRange

section
variable {i : Instr} {s t : State}

theorem ExecFault.status (h : ExecFault i s t) : t.status = .faulted := by
  cases h <;> rfl

/-- A call that finds the stack full faults (R101, R163). -/
theorem exec_call_of_full {nnn : Addr} (h : s.sp.val = 16) :
    exec (.call nnn) s = .next (s.raise .stackOverflow (encode (.call nnn))) := by
  simp only [exec, execCall, s.pushPc_eq_none h]

/-- Everything an execute phase can have done to the status: nothing, the halt of HALT, or one of the fatal
conditions. -/
theorem exec_status_cases (he : exec i s = .next t) :
    t.status = s.status ∨ (i = .halt ∧ t = s.halt) ∨ ExecFault i s t := by
  by_cases hout : 0 < touchedBytes s i ∧ 4095 < s.i.toNat + touchedBytes s i - 1
  · obtain ⟨hpos, hbeyond⟩ := hout
    rw [exec_of_touched_outside hpos hbeyond] at he
    cases he
    exact .inr (.inr (.memoryOutOfRange hpos hbeyond))
  cases i with
  | halt => cases he; exact .inr (.inl ⟨rfl, rfl⟩)
  | call nnn =>
    by_cases hsp : s.sp.val < 16
    · rw [exec_call_of_push (s.pushPc_of_lt hsp)] at he
      cases he
      exact .inl rfl
    · have hfull : s.sp.val = 16 := by omega
      rw [exec_call_of_full hfull] at he
      cases he
      exact .inr (.inr (.stackOverflow hfull))
  | ret =>
    by_cases hsp : 0 < s.sp.val
    · rw [exec_ret_of_pop (s.popPc_of_pos hsp)] at he
      cases he
      exact .inl rfl
    · have hempty : s.sp.val = 0 := by omega
      rw [exec_ret_of_empty hempty] at he
      cases he
      exact .inr (.inr (.stackUnderflow hempty))
  | ldVxK x =>
    obtain ⟨sym, rest, hsyms, ⟨k, -, rfl⟩ | ⟨hkey, rfl⟩⟩ := exec_ldVxK_cases he
    · exact .inl rfl
    · exact .inr (.inr (.unmappedKey hsyms hkey))
  | drw x y n =>
    have hin : inMemory s.i (s.scannedRows y n) = true := by
      have htouched : touchedBytes s (.drw x y n) = s.scannedRows y n := rfl
      rw [inMemory_iff]
      omega
    rw [exec_drw_inside hin] at he
    cases he
    exact .inl rfl
  | ldB x =>
    simp only [touchedBytes] at hout
    rw [exec_ldB_inside x (by omega)] at he
    cases he
    exact .inl rfl
  | storeRegs x =>
    simp only [touchedBytes] at hout
    rw [exec_storeRegs_inside (by omega)] at he
    cases he
    exact .inl (State.blockAdvance_status _)
  | loadRegs x =>
    simp only [touchedBytes] at hout
    rw [exec_loadRegs_inside (by omega)] at he
    cases he
    exact .inl (State.blockAdvance_status _)
  | _ => exact .inl (exec_frame he .status (by simp [writtenParts]))

/-- An execute phase that starts `RUNNING` and ends `FAULTED` met one of the fatal conditions (R161). -/
theorem execFault_of_faulted (hr : s.status = .running) (he : exec i s = .next t) (ht : t.status = .faulted) :
    ExecFault i s t := by
  obtain hkept | ⟨-, rfl⟩ | hfault := exec_status_cases he
  · simp [hr, ht] at hkept
  · cases ht
  · exact hfault

/-- An execute phase that starts `RUNNING` and ends `HALTED` is that of HALT (R156, R173). -/
theorem eq_halt_of_halted (hr : s.status = .running) (he : exec i s = .next t) (ht : t.status = .halted) :
    i = .halt ∧ t = s.halt := by
  obtain hkept | hhalt | hfault := exec_status_cases he
  · simp [hr, ht] at hkept
  · exact hhalt
  · simp [hfault.status] at ht

/-- A step that halts ran the word 0x0000, after its fetch (R156, R173). -/
theorem step_halted (h : step s = .next t) (ht : t.status = .halted) :
    s.fetchWord = 0x0000#16 ∧ t = s.advance.halt := by
  obtain ⟨hr, ⟨-, rfl⟩ | ⟨-, _, -, rfl⟩ | ⟨-, i, u, hd, he, rfl⟩⟩ := step_cases h
  · cases ht
  · cases ht
  · rw [endCycle_status] at ht
    obtain ⟨rfl, rfl⟩ := eq_halt_of_halted (s := s.advance) hr he ht
    obtain ⟨hw, -⟩ := encode_of_decodeWord hd
    exact ⟨hw.symm, endCycle_of_stopped (by simp)⟩

/-- An instruction that touches bytes at `I` may raise the range fault (R161). -/
theorem memoryOutOfRange_mem_raisable (h : 0 < touchedBytes s i) : FaultCause.memoryOutOfRange ∈ raisable i := by
  cases i with
  | drw | ldB | storeRegs | loadRegs => exact List.mem_singleton_self _
  | _ => exact absurd h (Nat.lt_irrefl 0)

end

end Sys2Proof.Machine

open Sys2Proof Sys2Proof.Machine

/-- Settles O16: the step that halts is that of the word 0x0000, and the halt writes the status alone. -/
theorem onlyWordZeroHalts : Obligations.OnlyWordZeroHalts := by
  refine ⟨fun s t hstep ht => ?_, fun s hf => ?_⟩
  · obtain ⟨hw, rfl⟩ := step_halted hstep ht
    exact ⟨hw, rfl, rfl, rfl, nofun⟩
  · exact ⟨by simp only [State.exitCode, hf], fun hsafe => hsafe hf⟩

/-- Settles O17, condition by condition: each leaves a raised fault and no more, but for the symbol of the
key-wait. -/
theorem faultsArePrecise : Obligations.FaultsArePrecise := by
  intro i s t hr he ht
  cases execFault_of_faulted hr he ht with
  | stackOverflow | stackUnderflow | memoryOutOfRange =>
    exact ⟨(s.raise_frame _ _).mono (by simp), rfl, fun _ => rfl⟩
  | unmappedKey =>
    exact ⟨(s.afterSym_frame.append (State.raise_frame _ _ _)).mono (by simp), rfl, fun hno => absurd rfl (hno _)⟩

/-- Settles O18: each condition raises its own cause, so the clauses of the other causes speak of nothing. -/
theorem faultCausesAreThoseOfTheTable : Obligations.FaultCausesAreThoseOfTheTable := by
  intro i s t hr he ht
  cases execFault_of_faulted hr he ht with
  | stackOverflow hsp => exact ⟨List.mem_singleton_self _, fun _ => ⟨rfl, hsp⟩, nofun, nofun, nofun⟩
  | stackUnderflow hsp => exact ⟨List.mem_singleton_self _, nofun, fun _ => ⟨rfl, hsp⟩, nofun, nofun⟩
  | memoryOutOfRange hpos hout =>
    exact ⟨memoryOutOfRange_mem_raisable hpos, nofun, nofun, fun _ => ⟨firstOutside_toNat s.i, hpos, hout⟩, nofun⟩
  | unmappedKey hsyms hkey =>
    exact ⟨List.mem_singleton_self _, nofun, nofun, nofun, fun _ =>
      ⟨_, _, hsyms, byteWord_toNat _, keyOf_eq_none.1 hkey⟩⟩

/-- Settles O9: a faulted core has no step, and of the host's actions only a reset does more than write its
inputs. -/
theorem nothingLeavesFaultedButReset : Obligations.NothingLeavesFaultedButReset := by
  intro s hf
  refine ⟨step_of_faulted hf, run_of_fault (step_of_faulted hf), fun a t ht => ?_, fun l hrom => ?_⟩
  · exact (hostAct_cases ht).imp_left fun ⟨_, hset⟩ => hset ▸ hf
  · exact ⟨_, launch_of_fits hrom, rfl⟩

/-- Settles O19: the push answers nothing, and the fault in its place leaves the stack. -/
theorem callOnFullStackFaults : Obligations.CallOnFullStackFaults := fun nnn s hsp =>
  ⟨_, exec_call_of_full hsp, s.raiseAt_faultedWith s.pc0 .stackOverflow (encode (.call nnn)), rfl, rfl⟩

/-- Settles O20: the symbol is consumed first, and the fault leaves the registers. -/
theorem unmappedSymbolFaults : Obligations.UnmappedSymbolFaults := fun _ s _ _ hsyms hno =>
  ⟨_, exec_ldVxK_unmapped hsyms (keyOf_eq_none.2 hno), rfl, rfl, rfl, State.afterSym_syms hsyms,
    (s.afterSym_frame.append (State.raise_frame _ _ _)).mono (by simp)⟩
end
